-- ==== Sys2Proof/Word.lean ====
section
/-! DEFINITION. The value types of the core (spec/00_scope.md R8, R10, R11): bytes, words, instruction fields, register, key and
pixel numbers. -/

namespace Sys2Proof

/-- `u8` of R11. -/
abbrev Byte := BitVec 8

/-- `u16` of R11: instruction words, PC, I and stack entries. -/
abbrev Word := BitVec 16

/-- The 12-bit address field nnn (R72). -/
abbrev Nnn := BitVec 12

/-- The number of a general register V0..VF: a 4-bit field, so every value names a register (R21). -/
abbrev Reg := Fin 16

/-- VF, register 0xF, the flag register (R22). -/
abbrev vf : Reg := 15

/-- The number of a key, 0x0..0xF (R272). -/
abbrev Key := Fin 16

/-- A pixel of the display grid, (column, row) with column 0 leftmost and row 0 top (R200). -/
abbrev Pixel := Fin 64 × Fin 32

/-- The 64 x 32 one-bit pixels of the display surface (R271): one 64-bit row per y, bit x of a row being column x. -/
abbrev Display := Vector (BitVec 64) 32

end Sys2Proof
end

