-- ==== Sys2Proof/Syntax.lean ====
section
/-! DEFINITION. The 33 instructions of spec/30_encoding.md R78, one constructor per row of spec/opcode_table.json. Operands are the
fields of R72. -/

namespace Sys2Proof

/-- The instructions, in the order of R78. -/
inductive Instr where
  /-- 00E0, CLS (R201). -/
  | cls
  /-- 00EE, RET (R101). -/
  | ret
  /-- 1nnn, JP addr (R102). -/
  | jp (nnn : Nnn)
  /-- 2nnn, CALL addr (R103). -/
  | call (nnn : Nnn)
  /-- 3xkk, SE Vx,kk (R104). -/
  | seImm (x : Reg) (kk : Byte)
  /-- 4xkk, SNE Vx,kk (R105). -/
  | sneImm (x : Reg) (kk : Byte)
  /-- 5xy0, SE Vx,Vy (R106). -/
  | seReg (x y : Reg)
  /-- 6xkk, LD Vx,kk (R131). -/
  | ldImm (x : Reg) (kk : Byte)
  /-- 7xkk, ADD Vx,kk (R132). -/
  | addImm (x : Reg) (kk : Byte)
  /-- 8xy0, LD Vx,Vy (R133). -/
  | ldReg (x y : Reg)
  /-- 8xy1, OR Vx,Vy (R134). -/
  | orReg (x y : Reg)
  /-- 8xy2, AND Vx,Vy (R135). -/
  | andReg (x y : Reg)
  /-- 8xy3, XOR Vx,Vy (R136). -/
  | xorReg (x y : Reg)
  /-- 8xy4, ADD Vx,Vy (R137). -/
  | addReg (x y : Reg)
  /-- 8xy5, SUB Vx,Vy (R138). -/
  | sub (x y : Reg)
  /-- 8xy6, SHR Vx,Vy (R139). -/
  | shr (x y : Reg)
  /-- 8xy7, SUBN Vx,Vy (R140). -/
  | subn (x y : Reg)
  /-- 8xyE, SHL Vx,Vy (R141). -/
  | shl (x y : Reg)
  /-- 9xy0, SNE Vx,Vy (R107). -/
  | sneReg (x y : Reg)
  /-- Annn, LD I,addr (R171). -/
  | ldI (nnn : Nnn)
  /-- Bnnn, JP V0,addr (R108). -/
  | jpV0 (nnn : Nnn)
  /-- Cxkk, RND Vx,kk (R142). -/
  | rnd (x : Reg) (kk : Byte)
  /-- Dxyn, DRW Vx,Vy,n (R202); n is a count of rows (R73). -/
  | drw (x y : Reg) (n : Nat)
  /-- Ex9E, SKP Vx (R204). -/
  | skp (x : Reg)
  /-- ExA1, SKNP Vx (R205). -/
  | sknp (x : Reg)
  /-- Fx07, LD Vx,DT (R231). -/
  | ldVxDt (x : Reg)
  /-- Fx15, LD DT,Vx (R232). -/
  | ldDtVx (x : Reg)
  /-- Fx18, LD ST,Vx (R233). -/
  | ldStVx (x : Reg)
  /-- Fx1E, ADD I,Vx (R172). -/
  | addI (x : Reg)
  /-- Fx29, LD F,Vx (R173). -/
  | ldF (x : Reg)
  /-- Fx33, LD B,Vx (R174). -/
  | ldB (x : Reg)
  /-- Fx55, LD [I],Vx (R175). -/
  | storeRegs (x : Reg)
  /-- Fx65, LD Vx,[I] (R176). -/
  | loadRegs (x : Reg)
deriving DecidableEq, Repr

/-- The number of an instruction's row in the table of R78. -/
def Instr.row : Instr → Nat
  | .cls => 1 | .ret => 2 | .jp _ => 3 | .call _ => 4 | .seImm _ _ => 5 | .sneImm _ _ => 6 | .seReg _ _ => 7
  | .ldImm _ _ => 8 | .addImm _ _ => 9 | .ldReg _ _ => 10 | .orReg _ _ => 11 | .andReg _ _ => 12 | .xorReg _ _ => 13
  | .addReg _ _ => 14 | .sub _ _ => 15 | .shr _ _ => 16 | .subn _ _ => 17 | .shl _ _ => 18 | .sneReg _ _ => 19
  | .ldI _ => 20 | .jpV0 _ => 21 | .rnd _ _ => 22 | .drw _ _ _ => 23 | .skp _ => 24 | .sknp _ => 25 | .ldVxDt _ => 26
  | .ldDtVx _ => 27 | .ldStVx _ => 28 | .addI _ => 29 | .ldF _ => 30 | .ldB _ => 31 | .storeRegs _ => 32 | .loadRegs _ => 33

end Sys2Proof
end

