-- ==== Sys2Proof/Decode.lean ====
section
/-! DEFINITION. Instruction encoding (spec/30_encoding.md): the fields of a word (R72), the two-level decode (R74, R77), the encoder
(R71, R78) and the match and mask table of R78. -/

namespace Sys2Proof

/-- Why bytes are not read as an instruction. -/
inductive Reject where
  /-- The word w selects no row of R78 (R79); the core reports it and goes on (R80). -/
  | unrecognized (w : Word)
  /-- Fewer than the two bytes of a word (R70). -/
  | truncated
deriving DecidableEq, Repr

/-- w[15:12], the major opcode (R71). -/
def fieldOp (w : Word) : BitVec 4 := w.extractLsb' 12 4

/-- x = w[11:8], a register (R72). -/
def fieldX (w : Word) : Reg := (w.extractLsb' 8 4).toFin

/-- y = w[7:4], a register (R72). -/
def fieldY (w : Word) : Reg := (w.extractLsb' 4 4).toFin

/-- n = w[3:0], the sprite height or the function nibble (R72). -/
def fieldN (w : Word) : BitVec 4 := w.extractLsb' 0 4

/-- kk = w[7:0], the byte immediate or the function byte (R72). -/
def fieldKk (w : Word) : Byte := w.extractLsb' 0 8

/-- nnn = w[11:0], the address (R72). -/
def fieldNnn (w : Word) : Nnn := w.extractLsb' 0 12

/-- Group 0x0, on the whole word (R74, R77). -/
def decodeGroup0 (w : Word) : Except Reject Instr :=
  if w = 0x00E0#16 then .ok .cls
  else if w = 0x00EE#16 then .ok .ret
  else .error (.unrecognized w)

/-- Groups 0x5 and 0x9, whose low nibble must be 0 (R76). -/
def decodeNibbleZero (w : Word) (i : Instr) : Except Reject Instr :=
  if fieldN w = 0#4 then .ok i else .error (.unrecognized w)

/-- Group 0x8, on w[3:0] (R74, R77). -/
def decodeGroup8 (w : Word) : Except Reject Instr :=
  match (fieldN w).toNat with
  | 0x0 => .ok (.ldReg (fieldX w) (fieldY w))
  | 0x1 => .ok (.orReg (fieldX w) (fieldY w))
  | 0x2 => .ok (.andReg (fieldX w) (fieldY w))
  | 0x3 => .ok (.xorReg (fieldX w) (fieldY w))
  | 0x4 => .ok (.addReg (fieldX w) (fieldY w))
  | 0x5 => .ok (.sub (fieldX w) (fieldY w))
  | 0x6 => .ok (.shr (fieldX w) (fieldY w))
  | 0x7 => .ok (.subn (fieldX w) (fieldY w))
  | 0xE => .ok (.shl (fieldX w) (fieldY w))
  | _ => .error (.unrecognized w)

/-- Group 0xE, on w[7:0] (R74, R77). -/
def decodeGroupE (w : Word) : Except Reject Instr :=
  match (fieldKk w).toNat with
  | 0x9E => .ok (.skp (fieldX w))
  | 0xA1 => .ok (.sknp (fieldX w))
  | _ => .error (.unrecognized w)

/-- Group 0xF, on w[7:0] (R74, R77). -/
def decodeGroupF (w : Word) : Except Reject Instr :=
  match (fieldKk w).toNat with
  | 0x07 => .ok (.ldVxDt (fieldX w))
  | 0x15 => .ok (.ldDtVx (fieldX w))
  | 0x18 => .ok (.ldStVx (fieldX w))
  | 0x1E => .ok (.addI (fieldX w))
  | 0x29 => .ok (.ldF (fieldX w))
  | 0x33 => .ok (.ldB (fieldX w))
  | 0x55 => .ok (.storeRegs (fieldX w))
  | 0x65 => .ok (.loadRegs (fieldX w))
  | _ => .error (.unrecognized w)

/-- The decode of one word (R74, R77). It reads nothing but the word (R75). -/
def decodeWord (w : Word) : Except Reject Instr :=
  match (fieldOp w).toNat with
  | 0x0 => decodeGroup0 w
  | 0x1 => .ok (.jp (fieldNnn w))
  | 0x2 => .ok (.call (fieldNnn w))
  | 0x3 => .ok (.seImm (fieldX w) (fieldKk w))
  | 0x4 => .ok (.sneImm (fieldX w) (fieldKk w))
  | 0x5 => decodeNibbleZero w (.seReg (fieldX w) (fieldY w))
  | 0x6 => .ok (.ldImm (fieldX w) (fieldKk w))
  | 0x7 => .ok (.addImm (fieldX w) (fieldKk w))
  | 0x8 => decodeGroup8 w
  | 0x9 => decodeNibbleZero w (.sneReg (fieldX w) (fieldY w))
  | 0xA => .ok (.ldI (fieldNnn w))
  | 0xB => .ok (.jpV0 (fieldNnn w))
  | 0xC => .ok (.rnd (fieldX w) (fieldKk w))
  | 0xD => .ok (.drw (fieldX w) (fieldY w) (fieldN w).toNat)
  | 0xE => decodeGroupE w
  | 0xF => decodeGroupF w
  | _ => .error (.unrecognized w)

/-- The word whose first (lower-addressed) byte is `hi`: instructions are big-endian (spec/20_memory.md R54; `hi * 256 + lo` of R82). -/
def wordOfBytes (hi lo : Byte) : Word := BitVec.ofNat 16 (hi.toNat * 256 + lo.toNat)

/-- The first byte of a word in memory, bits 15:8 (R54). -/
def highByte (w : Word) : Byte := w.extractLsb' 8 8

/-- The second byte of a word in memory, bits 7:0 (R54). -/
def lowByte (w : Word) : Byte := w.extractLsb' 0 8

/-- Decoding bytes as they lie in memory: the instruction and the bytes after it, or the reason there is none. -/
def decode : List Byte → Except Reject (Instr × List Byte)
  | hi :: lo :: rest => (decodeWord (wordOfBytes hi lo)).map fun i => (i, rest)
  | [_] | [] => .error .truncated

/-- Format A of R71: op in bits 15:12, nnn in bits 11:0. -/
def formatA (op : Nat) (nnn : Nnn) : Word := BitVec.ofNat 16 (op * 0x1000 + nnn.toNat)

/-- Format XK of R71: op in bits 15:12, x in bits 11:8, kk in bits 7:0. -/
def formatXK (op : Nat) (x : Reg) (kk : Byte) : Word := BitVec.ofNat 16 (op * 0x1000 + x.val * 0x100 + kk.toNat)

/-- Formats XY and XYN of R71: op in bits 15:12, x in bits 11:8, y in bits 7:4, the nibble in bits 3:0. -/
def formatXY (op : Nat) (x y : Reg) (nibble : Nat) : Word :=
  BitVec.ofNat 16 (op * 0x1000 + x.val * 0x100 + y.val * 0x10 + nibble)

/-- The word of a well-formed instruction (R71, R78). Format XF is XK with its function byte in the place of kk. -/
def encode : Instr → Word
  | .cls => 0x00E0#16
  | .ret => 0x00EE#16
  | .jp nnn => formatA 0x1 nnn
  | .call nnn => formatA 0x2 nnn
  | .seImm x kk => formatXK 0x3 x kk
  | .sneImm x kk => formatXK 0x4 x kk
  | .seReg x y => formatXY 0x5 x y 0x0
  | .ldImm x kk => formatXK 0x6 x kk
  | .addImm x kk => formatXK 0x7 x kk
  | .ldReg x y => formatXY 0x8 x y 0x0
  | .orReg x y => formatXY 0x8 x y 0x1
  | .andReg x y => formatXY 0x8 x y 0x2
  | .xorReg x y => formatXY 0x8 x y 0x3
  | .addReg x y => formatXY 0x8 x y 0x4
  | .sub x y => formatXY 0x8 x y 0x5
  | .shr x y => formatXY 0x8 x y 0x6
  | .subn x y => formatXY 0x8 x y 0x7
  | .shl x y => formatXY 0x8 x y 0xE
  | .sneReg x y => formatXY 0x9 x y 0x0
  | .ldI nnn => formatA 0xA nnn
  | .jpV0 nnn => formatA 0xB nnn
  | .rnd x kk => formatXK 0xC x kk
  | .drw x y n => formatXY 0xD x y n
  | .skp x => formatXK 0xE x 0x9E#8
  | .sknp x => formatXK 0xE x 0xA1#8
  | .ldVxDt x => formatXK 0xF x 0x07#8
  | .ldDtVx x => formatXK 0xF x 0x15#8
  | .ldStVx x => formatXK 0xF x 0x18#8
  | .addI x => formatXK 0xF x 0x1E#8
  | .ldF x => formatXK 0xF x 0x29#8
  | .ldB x => formatXK 0xF x 0x33#8
  | .storeRegs x => formatXK 0xF x 0x55#8
  | .loadRegs x => formatXK 0xF x 0x65#8

/-- The two bytes of an instruction as they lie in memory. -/
def encodeBytes (i : Instr) : List Byte := [highByte (encode i), lowByte (encode i)]

/-- A row of the table of R78: a word w selects it when `w &&& mask = value`. -/
structure OpcodeRow where
  num : Nat
  value : Word
  mask : Word
deriving DecidableEq, Repr

/-- The table of R78, its `match` and `mask` columns as the spec writes them, independent of `decodeWord`. -/
def opcodeTable : List OpcodeRow :=
  [⟨1, 0x00E0, 0xFFFF⟩, ⟨2, 0x00EE, 0xFFFF⟩, ⟨3, 0x1000, 0xF000⟩, ⟨4, 0x2000, 0xF000⟩, ⟨5, 0x3000, 0xF000⟩,
   ⟨6, 0x4000, 0xF000⟩, ⟨7, 0x5000, 0xF00F⟩, ⟨8, 0x6000, 0xF000⟩, ⟨9, 0x7000, 0xF000⟩] ++
  [⟨10, 0x8000, 0xF00F⟩, ⟨11, 0x8001, 0xF00F⟩, ⟨12, 0x8002, 0xF00F⟩, ⟨13, 0x8003, 0xF00F⟩, ⟨14, 0x8004, 0xF00F⟩,
   ⟨15, 0x8005, 0xF00F⟩, ⟨16, 0x8006, 0xF00F⟩, ⟨17, 0x8007, 0xF00F⟩, ⟨18, 0x800E, 0xF00F⟩] ++
  [⟨19, 0x9000, 0xF00F⟩, ⟨20, 0xA000, 0xF000⟩, ⟨21, 0xB000, 0xF000⟩, ⟨22, 0xC000, 0xF000⟩, ⟨23, 0xD000, 0xF000⟩,
   ⟨24, 0xE09E, 0xF0FF⟩, ⟨25, 0xE0A1, 0xF0FF⟩] ++
  [⟨26, 0xF007, 0xF0FF⟩, ⟨27, 0xF015, 0xF0FF⟩, ⟨28, 0xF018, 0xF0FF⟩, ⟨29, 0xF01E, 0xF0FF⟩, ⟨30, 0xF029, 0xF0FF⟩,
   ⟨31, 0xF033, 0xF0FF⟩, ⟨32, 0xF055, 0xF0FF⟩, ⟨33, 0xF065, 0xF0FF⟩]

/-- The row of R78 is selected by the word. -/
def OpcodeRow.selectedBy (r : OpcodeRow) (w : Word) : Bool := w &&& r.mask == r.value

/-- The word of an instruction whose table bits are `w`, `nbits` of them, every other bit 0. -/
def tableWord (nbits w : Nat) : Word := BitVec.ofNat 16 (w % 2 ^ nbits)

/-- What the decoder reads from an instruction whose bits are `w`, laid out in memory as the core fetches it. -/
def decodeTableWord (nbits w : Nat) : Option Instr :=
  match decode [highByte (tableWord nbits w), lowByte (tableWord nbits w)] with
  | .ok (i, _) => some i
  | .error _ => none

end Sys2Proof
end

