-- ==== Sys2Proof/Config.lean ====
section
/-! DEFINITION. The parameters of the model (spec/00_scope.md R9) and the free answers of its oracles. -/

namespace Sys2Proof

/-- The default FONT, glyph by glyph (spec/20_memory.md R58). PRESUMED: the spec takes these bytes from general knowledge (log 2). -/
def Config.fontBytes : List Byte :=
  [0xF0, 0x90, 0x90, 0x90, 0xF0] ++ [0x20, 0x60, 0x20, 0x20, 0x70] ++
  [0xF0, 0x10, 0xF0, 0x80, 0xF0] ++ [0xF0, 0x10, 0xF0, 0x10, 0xF0] ++
  [0x90, 0x90, 0xF0, 0x10, 0x10] ++ [0xF0, 0x80, 0xF0, 0x10, 0xF0] ++
  [0xF0, 0x80, 0xF0, 0x90, 0xF0] ++ [0xF0, 0x10, 0x20, 0x40, 0x40] ++
  [0xF0, 0x90, 0xF0, 0x90, 0xF0] ++ [0xF0, 0x90, 0xF0, 0x10, 0xF0] ++
  [0xF0, 0x90, 0xF0, 0x90, 0x90] ++ [0xE0, 0x90, 0xE0, 0x90, 0xE0] ++
  [0xF0, 0x80, 0x80, 0x80, 0xF0] ++ [0xE0, 0x90, 0x90, 0x90, 0xE0] ++
  [0xF0, 0x80, 0xF0, 0x80, 0xF0] ++ [0xF0, 0x80, 0xF0, 0x80, 0x80]

/-- A display with every pixel clear. -/
def Config.clearDisplay : Display := Vector.replicate 32 0#64

/-- The parameters of R9 that a machine is constructed with; ROM is the argument of the load operation instead. -/
structure Params where
  /-- FONT: the 80 bytes at 0x000..0x04F at construction. -/
  font : Vector Byte 80
  /-- SHIFT_QUIRK: the value before the first SET_QUIRK. -/
  shiftQuirk : Bool
  /-- IPF: instructions per frame. -/
  ipf : Nat
  /-- DISPLAY0: the display's contents when the core starts. -/
  display0 : Display
deriving DecidableEq, Repr

/-- The parameters the reset state takes: the default FONT (R58), quirk off, the source's example rate 10 (R312) and a clear display.
DESIGN CHOICE for the last three (log 3, log 4, log 5). -/
def Params.default : Params where
  font := ⟨Config.fontBytes.toArray, by decide⟩
  shiftQuirk := false
  ipf := 10
  display0 := Config.clearDisplay

/-- Free value: the key state met by the input query of this number, bit k for key k, where the state gives no answer for it
(spec/60_exceptions.md R273; log 6). -/
opaque Config.freeKeys : Nat → BitVec 16

/-- Free value: the random byte drawn by the input query of this number, where the state gives no answer for it
(spec/60_exceptions.md R274; log 7). -/
opaque Config.freeByte : Nat → BitVec 8

end Sys2Proof
end

