-- ==== Sys2Proof/Machine/State.lean ====
section
/-! DEFINITION. The state of the machine: the core's architectural state (spec/10_state.md R20), the collaborators' state and the
outputs that the spec asks a model to keep, and the host's next operations. Plain data. -/

namespace Sys2Proof.Machine

/-- A diagnostic event (spec/60_exceptions.md R252): the code is the constructor, the info its arguments. Code 6 is never emitted
(R258) and has no constructor. -/
inductive Diagnostic where
  /-- Code 1: a word that is no instruction was executed (R253). -/
  | unrecognizedOpcode (w : Word)
  /-- Code 2: an addition of 2 to this PC carried out of bit 15 (R254). -/
  | pcRollover (pc : Word)
  /-- Code 3: a fetch at this PC, at least 0x0FFF (R255). -/
  | fetchRange (pc : Word)
  /-- Code 4: CALL on a full stack; the refused return address and the target (R256). -/
  | stackOverflow (pc : Word) (nnn : Nnn)
  /-- Code 5: RET on an empty stack (R257). -/
  | stackUnderflow (pc : Word)
deriving DecidableEq, Repr

/-- A call of the core on a collaborator port (spec/00_scope.md R14; spec/60_exceptions.md R270 to R274). -/
inductive PortCall where
  /-- `DispClearAll()`. -/
  | clearAll
  /-- `DispGet(x, y)`. -/
  | getPixel (p : Pixel)
  /-- `DispSet(x, y)`. -/
  | setPixel (p : Pixel)
  /-- `DispClear(x, y)`. -/
  | clearPixel (p : Pixel)
  /-- `KeyPressed(k)`. -/
  | keyPressed (k : Key)
  /-- `RandByte()`. -/
  | randByte
deriving DecidableEq, Repr

/-- An operation the host asks of the core (spec/60_exceptions.md R250), or a frame of its own schedule (spec/70 R313). -/
inductive HostOp where
  /-- STEP: fetch one word and execute it (R84). -/
  | step
  /-- FETCH: fetch, advance PC, return the word (R82). -/
  | fetch
  /-- EXECUTE(w): execute a word, with PC as it is (R85). -/
  | execute (w : Word)
  /-- TICK: decrement the timers (R265). -/
  | tick
  /-- LOAD(rom): reset and load a program image (R293). -/
  | load (rom : List Byte)
  /-- SET_QUIRK(b) (R278). -/
  | setQuirk (b : Bool)
  /-- The configuration surface's change of IPF (R277, R312). -/
  | setIpf (n : Nat)
  /-- frame(): IPF times STEP, then TICK (R313). -/
  | frame
deriving DecidableEq, Repr

/-- A call of the frame driver on the Audio collaborator (R267, R275). -/
inductive BuzzerCall where
  | on
  | off
deriving DecidableEq, Repr

/-- Memory as (address, byte) cells in canonical form: addresses strictly rising and below 4096, no cell equal to what an unlisted
address reads as (`Memory.wf`). -/
abbrev Memory := List Host.Cell

/-- The whole machine. The first block is the architectural state of R20. -/
structure State where
  /-- V0..VF (R21). -/
  v : Vector Byte 16
  /-- The index register I (R27). -/
  i : Word
  /-- The program counter PC (R24). -/
  pc : Word
  /-- SP, the number of occupied stack entries, 0..16 (R28). -/
  sp : Fin 17
  /-- STACK[0..15] (R29). -/
  stack : Vector Word 16
  /-- DT, the delay timer (R30). -/
  dt : Byte
  /-- ST, the sound timer (R31). -/
  st : Byte
  /-- MEM (R50). -/
  mem : Memory
  /-- The pixels held by the Display Surface (R271). -/
  display : Display
  /-- SHIFT_QUIRK, a configuration input (R34, R278). -/
  shiftQuirk : Bool
  /-- IPF, the frame driver's rate (R35, R312). -/
  ipf : Nat
  /-- The diagnostic output, oldest event first, append-only (R252). -/
  log : List Diagnostic
  /-- A first LOAD has happened (R297). -/
  loaded : Bool
  /-- The model's own: the calls made on the collaborator ports, oldest first (outputs of R250; log 10). -/
  calls : List PortCall
  /-- The model's own: the key states the next key queries meet, bit k for key k, first query first (R273; log 6). -/
  keyIn : List (BitVec 16)
  /-- The model's own: the bytes the next random draws give, first draw first (R274; log 7). -/
  randIn : List Byte
  /-- The model's own: how many input queries have been made, the index of the free answers (log 6, log 7). -/
  draws : Nat
  /-- The model's own: the host's next operations, first one first; none means STEP (R250; log 8). -/
  pending : List HostOp
  /-- The model's own: the word the last FETCH returned to the host (R82; log 9). -/
  fetched : Option Word
deriving DecidableEq, Repr

/-- The reasons the machine stops with a fault: none. The core has no exceptions, traps or faults (spec/60_exceptions.md R251), so
this type has no constructor and no step can answer a fault. -/
inductive Fault
deriving DecidableEq, Repr

/-- The reasons an operation is given no meaning. -/
inductive Refusal where
  /-- Raised by an arm of exec that has no meaning yet; safe. No arm raises it in this model. -/
  | notModelled (mnemonic : String)
  /-- Raised by STEP, FETCH and EXECUTE before the first LOAD, which R297 has a model refuse; safe. -/
  | notLoaded
  /-- Raised by LOAD of an image longer than 3584 bytes, which R295 has a model refuse; safe. -/
  | imageTooLong
deriving DecidableEq, Repr

/-- The state right after reset: construction (R291) and the first LOAD (R293) with an empty image, so every register is 0 and PC is
at the reset vector 0x0200 (R20, R57). Memory lists nothing: it holds what construction left (log 1, log 2). The display, quirk and IPF
are `Params.default` (log 3, log 4, log 5). -/
def State.reset : State where
  v := Vector.replicate 16 0#8
  i := 0x0000#16
  pc := 0x0200#16
  sp := 0
  stack := Vector.replicate 16 0#16
  dt := 0x00#8
  st := 0x00#8
  mem := []
  display := Params.default.display0
  shiftQuirk := Params.default.shiftQuirk
  ipf := Params.default.ipf
  log := []
  loaded := true
  calls := []
  keyIn := []
  randIn := []
  draws := 0
  pending := []
  fetched := none

end Sys2Proof.Machine
end

