-- ==== Sys2Proof/Machine/Memory.lean ====
section
/-! DEFINITION. Memory (spec/20_memory.md): what an unlisted address reads as, the canonical form, and reading and writing one byte. -/

namespace Sys2Proof.Machine

/-- What an unlisted address reads as: the construction contents of spec/70_reset_and_hazards.md R291, the default FONT at
0x000..0x04F and 0x00 elsewhere (log 2). A machine constructed with another FONT lists its bytes. -/
def Memory.unlisted (a : Nat) : Byte := Config.fontBytes.getD a 0x00#8

/-- The canonical form: addresses strictly rising and below 4096 (R50), no cell equal to what an unlisted address reads as
(log 15). -/
abbrev Memory.wf (m : Memory) : Prop :=
  m.Pairwise (fun c d => c.1 < d.1) ∧ ∀ c ∈ m, c.1 < 4096 ∧ c.2 ≠ Memory.unlisted c.1

/-- The byte at an address. -/
def Memory.read : Memory → Nat → Byte
  | [], a => Memory.unlisted a
  | (k, b) :: m, a => if a = k then b else Memory.read m a

/-- Memory without any cell for an address: it then reads as unlisted. -/
def Memory.erase (m : Memory) (a : Nat) : Memory := m.filter fun c => c.1 != a

/-- Memory with a cell put before the first cell of a higher address. -/
def Memory.insert : Memory → Nat → Byte → Memory
  | [], a, b => [(a, b)]
  | c :: m, a, b => if a < c.1 then (a, b) :: c :: m else c :: Memory.insert m a b

/-- Writing one byte: only the byte it names changes (R56), and writing what an unlisted address reads as removes its cell. -/
def Memory.write (m : Memory) (a : Nat) (b : Byte) : Memory :=
  if b = Memory.unlisted a then Memory.erase m a else Memory.insert (Memory.erase m a) a b

/-- Writing bytes at rising addresses from `a` on. -/
def Memory.writeBytes (m : Memory) (a : Nat) : List Byte → Memory
  | [] => m
  | b :: bs => Memory.writeBytes (Memory.write m a b) (a + 1) bs

/-- `addr & 0x0FFF`: the low 12 bits of a computed address (R51). -/
def maskAddr (addr : Nat) : Nat := addr % 0x1000

/-- `MemRead(addr, 1)` (spec/00_scope.md R13). -/
def memRead (s : State) (addr : Nat) : Byte := Memory.read s.mem (maskAddr addr)

/-- `MemWrite(addr, 1, b)` (spec/00_scope.md R13). -/
def memWrite (s : State) (addr : Nat) (b : Byte) : State := { s with mem := Memory.write s.mem (maskAddr addr) b }

end Sys2Proof.Machine
end

