-- ==== Sys2Proof/Machine/Ops.lean ====
section
/-! DEFINITION. The shared operations: registers (spec/00_scope.md R12), diagnostics (R15), PC and the fetch (spec/30_encoding.md R82),
the call stack (spec/40_control_flow.md R101, R103) and the collaborator ports (spec/60_exceptions.md R270 to R274). There is no
exception to take: R251, R261. An error condition is a `report`. -/

namespace Sys2Proof.Machine

/-- `V[r]` (R12). -/
def State.reg (s : State) (r : Reg) : Byte := s.v[r]

/-- `V[r] <- b` (R12). No register is hard-wired (R21). -/
def State.setReg (s : State) (r : Reg) (b : Byte) : State := { s with v := s.v.set r b }

/-- `pc <- target` (R12). -/
def State.setPc (s : State) (target : Word) : State := { s with pc := target }

/-- `I <- a` (R12). -/
def State.setI (s : State) (a : Word) : State := { s with i := a }

/-- `DT <- b` (R12). -/
def State.setDt (s : State) (b : Byte) : State := { s with dt := b }

/-- `ST <- b` (R12). -/
def State.setSt (s : State) (b : Byte) : State := { s with st := b }

/-- `report d` (R15): one event appended to the diagnostic output, nothing else (R252). -/
def report (d : Diagnostic) (s : State) : State := { s with log := s.log ++ [d] }

/-- An addition of 2 to PC, modulo 65536, reported when it carries out of bit 15 (spec/10_state.md R25). -/
def advancePc (s : State) : State :=
  let s1 := if s.pc.toNat + 2 > 0xFFFF then report (.pcRollover s.pc) s else s
  s1.setPc (s.pc + 2#16)

/-- `Skip()` (spec/40_control_flow.md R100). -/
def skip (s : State) : State := advancePc s

/-- The big-endian word at PC and PC + 1, both addresses masked (R82; spec/20_memory.md R54, R55). -/
def fetchWord (s : State) : Word := wordOfBytes (memRead s s.pc.toNat) (memRead s (s.pc.toNat + 1))

/-- The state a fetch leaves: FETCH_RANGE reported when PC ≥ 0x0FFF, PC advanced (R82). -/
def fetchState (s : State) : State :=
  advancePc (if s.pc.toNat ≥ 0x0FFF then report (.fetchRange s.pc) s else s)

/-- An unrecognized word executed: reported, and nothing else (R80). -/
def unrecognized (w : Word) (s : State) : State := report (.unrecognizedOpcode w) s

/-- The push of CALL: PC onto the stack, or the refusal of the push on a full stack (spec/40_control_flow.md R103). -/
def pushReturn (nnn : Nnn) (s : State) : State :=
  if h : s.sp.val < 16 then
    { s with stack := s.stack.set s.sp.val s.pc, sp := ⟨s.sp.val + 1, by omega⟩ }
  else report (.stackOverflow s.pc nnn) s

/-- The pop of RET: decrement SP and read the entry it then names into PC, or the report of an empty stack (R101). -/
def popReturn (s : State) : State :=
  if h : s.sp.val = 0 then report (.stackUnderflow s.pc) s
  else
    { s with pc := s.stack[s.sp.val - 1]'(by omega), sp := ⟨s.sp.val - 1, by omega⟩ }

/-- A call on a collaborator port is an output of the core (R250). -/
def called (c : PortCall) (s : State) : State := { s with calls := s.calls ++ [c] }

/-- Whether a pixel is lit (R271). -/
def pixelLit (d : Display) (p : Pixel) : Bool := d[p.2].getLsbD p.1

/-- A display with one pixel lit (R271). -/
def lightPixel (d : Display) (p : Pixel) : Display := d.set p.2 (d[p.2] ||| BitVec.twoPow 64 p.1)

/-- A display with one pixel clear (R271). -/
def darkenPixel (d : Display) (p : Pixel) : Display := d.set p.2 (d[p.2] &&& ~~~BitVec.twoPow 64 p.1)

/-- `DispClearAll()` (R14, R271). -/
def dispClearAll (s : State) : State := called .clearAll { s with display := Config.clearDisplay }

/-- `DispGet(x, y)` (R14, R271): the answer and the state after the call. -/
def dispGet (p : Pixel) (s : State) : Bool × State := (pixelLit s.display p, called (.getPixel p) s)

/-- `DispSet(x, y)` (R14, R271). -/
def dispSet (p : Pixel) (s : State) : State := called (.setPixel p) { s with display := lightPixel s.display p }

/-- `DispClear(x, y)` (R14, R271). -/
def dispClear (p : Pixel) (s : State) : State := called (.clearPixel p) { s with display := darkenPixel s.display p }

/-- The key state the next key query meets: the host's answer where one is given, otherwise a free value (R273; log 6). -/
def keySample (s : State) : BitVec 16 := s.keyIn.headD (Config.freeKeys s.draws)

/-- The byte the next random draw gives: the host's where one is given, otherwise a free value (R274; log 7). -/
def randSample (s : State) : Byte := s.randIn.headD (Config.freeByte s.draws)

/-- `KeyPressed(k)` (R14, R272): the answer and the state after the query. -/
def keyPressed (k : Key) (s : State) : Bool × State :=
  ((keySample s).getLsbD k, called (.keyPressed k) { s with keyIn := s.keyIn.tail, draws := s.draws + 1 })

/-- `RandByte()` (R14, R274): the byte and the state after the draw. -/
def randByte (s : State) : Byte × State :=
  (randSample s, called .randByte { s with randIn := s.randIn.tail, draws := s.draws + 1 })

end Sys2Proof.Machine
end

