-- ==== Sys2Proof/Machine/Operands.lean ====
section
/-! DEFINITION. The operand forms: zero extension (spec/00_scope.md R11), index-register addresses (spec/42_index_memory.md R170), the
shift source, digits, key index and sprite geometry. -/

namespace Sys2Proof.Machine

/-- `zext_16(nnn)` (R11, R73). -/
def zextNnn (nnn : Nnn) : Word := nnn.setWidth 16

/-- `zext_16(b)` of a byte (R11). -/
def zextByte (b : Byte) : Word := b.setWidth 16

/-- The address of the k-th byte reached through I, before the mask of `memRead` and `memWrite` (R170). -/
def indexAddr (s : State) (k : Nat) : Nat := s.i.toNat + k

/-- The source of SHR and SHL: Vy when SHIFT_QUIRK is set, otherwise Vx (spec/41_alu.md R139, R141). -/
def shiftSource (x y : Reg) (s : State) : Byte := if s.shiftQuirk then s.reg y else s.reg x

/-- The target of JP V0,addr (spec/40_control_flow.md R108). -/
def jumpV0Target (nnn : Nnn) (s : State) : Word := zextNnn nnn + zextByte (s.reg 0)

/-- The address of the glyph of Vx: the whole byte times 5 (spec/42_index_memory.md R173). -/
def glyphAddr (x : Reg) (s : State) : Word := zextByte (s.reg x) * 5#16

/-- The hundreds digit of a byte (R174). -/
def hundreds (b : Byte) : Byte := BitVec.ofNat 8 (b.toNat / 100)

/-- The tens digit of a byte (R174). -/
def tens (b : Byte) : Byte := BitVec.ofNat 8 (b.toNat / 10 % 10)

/-- The ones digit of a byte (R174). -/
def ones (b : Byte) : Byte := BitVec.ofNat 8 (b.toNat % 10)

/-- The registers V0..VF in ascending order. -/
def allRegs : List Reg := [0, 1, 2, 3, 4, 5, 6, 7, 8, 9, 10, 11, 12, 13, 14, 15]

/-- The registers V0..Vx in ascending order (R175, R176). -/
def regsUpTo (x : Reg) : List Reg := allRegs.filter (fun k => k ≤ x)

/-- The key a key instruction queries: the low nibble of Vx (spec/43_display_input.md R204). -/
def keyIndex (x : Reg) (s : State) : Key := ⟨(s.reg x).toNat % 16, by omega⟩

/-- The column a sprite starts at, Vx mod 64 (R202). -/
def spriteColumn (x : Reg) (s : State) : Nat := (s.reg x).toNat % 64

/-- The row a sprite starts at, Vy mod 32 (R202). -/
def spriteRow (y : Reg) (s : State) : Nat := (s.reg y).toNat % 32

/-- Bit c of row r of the sprite at I, most significant bit first (R202). -/
def spriteBit (s : State) (r c : Nat) : Bool := (memRead s (indexAddr s r)).getLsbD (7 - c)

/-- The pixel at a column and a row, if it is on the display: sprites are clipped, not wrapped (R202). -/
def onScreen (px py : Nat) : Option Pixel :=
  if h : px < 64 ∧ py < 32 then some (⟨px, h.1⟩, ⟨py, h.2⟩) else none

/-- The on-screen pixels of one sprite row whose sprite bit is 1, in ascending column (R202). -/
def spriteRowPixels (s : State) (x0 y0 r : Nat) : List Pixel :=
  (List.range 8).filterMap fun c => if spriteBit s r c then onScreen (x0 + c) (y0 + r) else none

/-- The set S of spec/43_display_input.md R203 in the order of the loop of R202: row by row, column by column. -/
def spritePixels (s : State) (x0 y0 n : Nat) : List Pixel :=
  (List.range n).flatMap fun r => spriteRowPixels s x0 y0 r

end Sys2Proof.Machine
end

