-- ==== Sys2Proof/Machine/Flags.lean ====
section
/-! DEFINITION. The flag VF (spec/10_state.md R32): what each instruction computes for it, and the order of the two writes (R38). -/

namespace Sys2Proof.Machine

/-- A flag as VF holds it: 1 or 0 (R32). -/
def flagByte (b : Bool) : Byte := if b then 0x01#8 else 0x00#8

/-- The carry of ADD Vx,Vy: the sum exceeds 255 (spec/41_alu.md R137). -/
def carryFlag (a b : Byte) : Bool := decide (a.toNat + b.toNat > 255)

/-- The no-borrow flag of a - b: a > b, strictly (R138, R140; spec/90_conflicts.md C4). -/
def noBorrowFlag (a b : Byte) : Bool := decide (a.toNat > b.toNat)

/-- The bit SHR shifts out, bit 0 of the source (R139). -/
def shrFlag (src : Byte) : Bool := src.getLsbD 0

/-- The bit SHL shifts out, bit 7 of the source (R141). -/
def shlFlag (src : Byte) : Bool := src.getLsbD 7

/-- VF written first and Vx second, so that for x = 0xF the result stays (R38, R130). -/
def writeFlagAndResult (x : Reg) (flag : Bool) (result : Byte) (s : State) : State :=
  (s.setReg vf (flagByte flag)).setReg x result

end Sys2Proof.Machine
end

