-- ==== Sys2Proof/Machine/Alu.lean ====
section
/-! DEFINITION. Register loads and ALU (spec/41_alu.md). Operands are read before the first write (R130). -/

namespace Sys2Proof.Machine

/-- LD Vx,kk (R131). -/
def execLdImm (x : Reg) (kk : Byte) (s : State) : Host.Outcome State Fault Refusal := .next (s.setReg x kk)

/-- ADD Vx,kk (R132): no flag. -/
def execAddImm (x : Reg) (kk : Byte) (s : State) : Host.Outcome State Fault Refusal := .next (s.setReg x (s.reg x + kk))

/-- LD Vx,Vy (R133). -/
def execLdReg (x y : Reg) (s : State) : Host.Outcome State Fault Refusal := .next (s.setReg x (s.reg y))

/-- OR Vx,Vy (R134): no flag. -/
def execOrReg (x y : Reg) (s : State) : Host.Outcome State Fault Refusal := .next (s.setReg x (s.reg x ||| s.reg y))

/-- AND Vx,Vy (R135): no flag. -/
def execAndReg (x y : Reg) (s : State) : Host.Outcome State Fault Refusal := .next (s.setReg x (s.reg x &&& s.reg y))

/-- XOR Vx,Vy (R136): no flag. -/
def execXorReg (x y : Reg) (s : State) : Host.Outcome State Fault Refusal := .next (s.setReg x (s.reg x ^^^ s.reg y))

/-- ADD Vx,Vy (R137). -/
def execAddReg (x y : Reg) (s : State) : Host.Outcome State Fault Refusal :=
  .next (writeFlagAndResult x (carryFlag (s.reg x) (s.reg y)) (s.reg x + s.reg y) s)

/-- SUB Vx,Vy (R138). -/
def execSub (x y : Reg) (s : State) : Host.Outcome State Fault Refusal :=
  .next (writeFlagAndResult x (noBorrowFlag (s.reg x) (s.reg y)) (s.reg x - s.reg y) s)

/-- SHR Vx,Vy (R139). -/
def execShr (x y : Reg) (s : State) : Host.Outcome State Fault Refusal :=
  .next (writeFlagAndResult x (shrFlag (shiftSource x y s)) (shiftSource x y s >>> 1) s)

/-- SUBN Vx,Vy (R140). -/
def execSubn (x y : Reg) (s : State) : Host.Outcome State Fault Refusal :=
  .next (writeFlagAndResult x (noBorrowFlag (s.reg y) (s.reg x)) (s.reg y - s.reg x) s)

/-- SHL Vx,Vy (R141). -/
def execShl (x y : Reg) (s : State) : Host.Outcome State Fault Refusal :=
  .next (writeFlagAndResult x (shlFlag (shiftSource x y s)) (shiftSource x y s <<< 1) s)

/-- RND Vx,kk (R142). -/
def execRnd (x : Reg) (kk : Byte) (s : State) : Host.Outcome State Fault Refusal :=
  .next ((randByte s).2.setReg x ((randByte s).1 &&& kk))

end Sys2Proof.Machine
end

