-- ==== Sys2Proof/Machine/ControlFlow.lean ====
section
/-! DEFINITION. Control transfer (spec/40_control_flow.md). PC is what the fetch left, the instruction's address + 2. -/

namespace Sys2Proof.Machine

/-- RET (R101). -/
def execRet (s : State) : Host.Outcome State Fault Refusal := .next (popReturn s)

/-- JP addr (R102). -/
def execJp (nnn : Nnn) (s : State) : Host.Outcome State Fault Refusal := .next (s.setPc (zextNnn nnn))

/-- CALL addr (R103): on a full stack the push is refused and PC still branches. -/
def execCall (nnn : Nnn) (s : State) : Host.Outcome State Fault Refusal := .next ((pushReturn nnn s).setPc (zextNnn nnn))

/-- SE Vx,kk (R104). -/
def execSeImm (x : Reg) (kk : Byte) (s : State) : Host.Outcome State Fault Refusal :=
  .next (if s.reg x = kk then skip s else s)

/-- SNE Vx,kk (R105). -/
def execSneImm (x : Reg) (kk : Byte) (s : State) : Host.Outcome State Fault Refusal :=
  .next (if s.reg x ≠ kk then skip s else s)

/-- SE Vx,Vy (R106). -/
def execSeReg (x y : Reg) (s : State) : Host.Outcome State Fault Refusal :=
  .next (if s.reg x = s.reg y then skip s else s)

/-- SNE Vx,Vy (R107). -/
def execSneReg (x y : Reg) (s : State) : Host.Outcome State Fault Refusal :=
  .next (if s.reg x ≠ s.reg y then skip s else s)

/-- JP V0,addr (R108): the sum is not masked. -/
def execJpV0 (nnn : Nnn) (s : State) : Host.Outcome State Fault Refusal := .next (s.setPc (jumpV0Target nnn s))

end Sys2Proof.Machine
end

