-- ==== Sys2Proof/Machine/DisplayInput.lean ====
section
/-! DEFINITION. Display and input (spec/43_display_input.md). -/

namespace Sys2Proof.Machine

/-- CLS (R201): one `DispClearAll()` call. -/
def execCls (s : State) : Host.Outcome State Fault Refusal := .next (dispClearAll s)

/-- The draw of one 1-bit of a sprite (R202): the pixel is toggled, and a pixel found lit is a collision. -/
def touchPixel (acc : Bool × State) (p : Pixel) : Bool × State :=
  if (dispGet p acc.2).1 then (true, dispClear p (dispGet p acc.2).2) else (acc.1, dispSet p (dispGet p acc.2).2)

/-- The sprite loop of R202: the collision and the state before VF is written. The sprite bytes are read from the state before the
draw, which draws change no memory of (log 11). -/
def drawSprite (x y : Reg) (n : Nat) (s : State) : Bool × State :=
  (spritePixels s (spriteColumn x s) (spriteRow y s) n).foldl touchPixel (false, s)

/-- DRW Vx,Vy,n (R202). -/
def execDrw (x y : Reg) (n : Nat) (s : State) : Host.Outcome State Fault Refusal :=
  .next ((drawSprite x y n s).2.setReg vf (flagByte (drawSprite x y n s).1))

/-- SKP Vx (R204). -/
def execSkp (x : Reg) (s : State) : Host.Outcome State Fault Refusal :=
  .next (if (keyPressed (keyIndex x s) s).1 then skip (keyPressed (keyIndex x s) s).2 else (keyPressed (keyIndex x s) s).2)

/-- SKNP Vx (R205). -/
def execSknp (x : Reg) (s : State) : Host.Outcome State Fault Refusal :=
  .next (if (keyPressed (keyIndex x s) s).1 then (keyPressed (keyIndex x s) s).2 else skip (keyPressed (keyIndex x s) s).2)

end Sys2Proof.Machine
end

