-- ==== Sys2Proof/Machine/IndexMemory.lean ====
section
/-! DEFINITION. The index register and memory transfers (spec/42_index_memory.md). -/

namespace Sys2Proof.Machine

/-- LD I,addr (R171). -/
def execLdI (nnn : Nnn) (s : State) : Host.Outcome State Fault Refusal := .next (s.setI (zextNnn nnn))

/-- ADD I,Vx (R172): modulo 65536, no flag. -/
def execAddI (x : Reg) (s : State) : Host.Outcome State Fault Refusal := .next (s.setI (s.i + zextByte (s.reg x)))

/-- LD F,Vx (R173). -/
def execLdF (x : Reg) (s : State) : Host.Outcome State Fault Refusal := .next (s.setI (glyphAddr x s))

/-- LD B,Vx (R174): hundreds at I, tens at I + 1, ones at I + 2. -/
def execLdB (x : Reg) (s : State) : Host.Outcome State Fault Refusal :=
  .next (memWrite (memWrite (memWrite s (indexAddr s 0) (hundreds (s.reg x)))
    (indexAddr s 1) (tens (s.reg x))) (indexAddr s 2) (ones (s.reg x)))

/-- One step of the loop of R175. -/
def storeReg (s : State) (k : Reg) : State := memWrite s (indexAddr s k) (s.reg k)

/-- LD [I],Vx (R175): I unchanged. -/
def execStoreRegs (x : Reg) (s : State) : Host.Outcome State Fault Refusal := .next ((regsUpTo x).foldl storeReg s)

/-- One step of the loop of R176. -/
def loadReg (s : State) (k : Reg) : State := s.setReg k (memRead s (indexAddr s k))

/-- LD Vx,[I] (R176): I unchanged. -/
def execLoadRegs (x : Reg) (s : State) : Host.Outcome State Fault Refusal := .next ((regsUpTo x).foldl loadReg s)

end Sys2Proof.Machine
end

