-- ==== Sys2Proof/Machine/TimerAccess.lean ====
section
/-! DEFINITION. Timer access (spec/44_timers.md). -/

namespace Sys2Proof.Machine

/-- LD Vx,DT (R231). -/
def execLdVxDt (x : Reg) (s : State) : Host.Outcome State Fault Refusal := .next (s.setReg x s.dt)

/-- LD DT,Vx (R232). -/
def execLdDtVx (x : Reg) (s : State) : Host.Outcome State Fault Refusal := .next (s.setDt (s.reg x))

/-- LD ST,Vx (R233). -/
def execLdStVx (x : Reg) (s : State) : Host.Outcome State Fault Refusal := .next (s.setSt (s.reg x))

end Sys2Proof.Machine
end

