-- ==== Sys2Proof/Machine/HostOps.lean ====
section
/-! DEFINITION. The operations the core offers the host (spec/60_exceptions.md R250), construction and the frame schedule
(spec/70_reset_and_hazards.md R291 to R297, R313). -/

namespace Sys2Proof.Machine

/-- The state of construction (R291): registers zeroed, FONT in low memory, nothing loaded; the display, quirk and IPF are the
parameters (R292). -/
def State.construct (p : Params) : State :=
  { State.reset with
    pc := 0x0000#16
    mem := Memory.writeBytes [] 0x000 p.font.toList
    display := p.display0
    shiftQuirk := p.shiftQuirk
    ipf := p.ipf
    loaded := false }

/-- Execute any word (R83, R85): an instruction by its rule, an unrecognized word by R80. -/
def executeWord (w : Word) (s : State) : Host.Outcome State Fault Refusal :=
  match decodeWord w with
  | .ok i => exec i s
  | .error _ => .next (unrecognized w s)

/-- What R297 asks: instruction operations are refused before the first LOAD. -/
def afterLoad (s : State) (out : Host.Outcome State Fault Refusal) : Host.Outcome State Fault Refusal :=
  if s.loaded then out else .refused .notLoaded

/-- STEP: one fetch, then one execute of the fetched word (R84). -/
def stepOp (s : State) : Host.Outcome State Fault Refusal := afterLoad s (executeWord (fetchWord s) (fetchState s))

/-- FETCH: the word is returned to the host (R82). -/
def fetchOp (s : State) : Host.Outcome State Fault Refusal :=
  afterLoad s (.next { fetchState s with fetched := some (fetchWord s) })

/-- EXECUTE(w): PC is taken as it is (R85). -/
def executeOp (w : Word) (s : State) : Host.Outcome State Fault Refusal := afterLoad s (executeWord w s)

/-- One timer, decremented unless it is zero (R265). -/
def tickTimer (b : Byte) : Byte := if b ≠ 0x00#8 then b - 0x01#8 else b

/-- TICK (R265). -/
def tick (s : State) : State := { s with dt := tickTimer s.dt, st := tickTimer s.st }

/-- The longest image that fits from 0x200 to 0xFFF (R295). -/
def maxImage : Nat := 3584

/-- The state LOAD leaves (R293): registers and stack zeroed, the image copied, PC at the reset vector. The rest of memory, the
display, the quirk, IPF and the log are kept (R294, R296). -/
def loadState (rom : List Byte) (s : State) : State :=
  { s with
    v := Vector.replicate 16 0x00#8
    i := 0x0000#16
    dt := 0x00#8
    st := 0x00#8
    sp := 0
    stack := Vector.replicate 16 0x0000#16
    mem := Memory.writeBytes s.mem 0x200 rom
    pc := 0x0200#16
    loaded := true }

/-- LOAD(rom) (R293, R295). -/
def loadOp (rom : List Byte) (s : State) : Host.Outcome State Fault Refusal :=
  if rom.length > maxImage then .refused .imageTooLong else .next (loadState rom s)

/-- What a frame asks of the core: IPF times STEP, then TICK (R313). -/
def frameOps (ipf : Nat) : List HostOp := List.replicate ipf .step ++ [.tick]

/-- The start of a frame: the driver reads IPF and puts the frame's operations before whatever it had next (R312, R313). -/
def startFrame (s : State) : State := { s with pending := frameOps s.ipf ++ s.pending }

/-- One operation of the host (R250). -/
def hostOp (op : HostOp) (s : State) : Host.Outcome State Fault Refusal :=
  match op with
  | .step => stepOp s
  | .fetch => fetchOp s
  | .execute w => executeOp w s
  | .tick => .next (tick s)
  | .load rom => loadOp rom s
  | .setQuirk b => .next { s with shiftQuirk := b }
  | .setIpf n => .next { s with ipf := n }
  | .frame => .next (startFrame s)

/-- The next operation: the first pending one, or STEP where the host gives none (log 8). -/
def nextOp (s : State) : Host.Outcome State Fault Refusal :=
  match s.pending with
  | [] => stepOp s
  | op :: rest => hostOp op { s with pending := rest }

/-- `sound_active`, the core's audio output (R267). -/
def State.soundActive (s : State) : Bool := decide (s.st ≠ 0x00#8)

/-- The call the frame driver makes on the Audio collaborator when it sees `sound_active` change (R267). -/
def buzzerCall (before after : Bool) : Option BuzzerCall :=
  if !before && after then some .on else if before && !after then some .off else none

/-- A word stored where the next instruction is fetched (R54, R82). -/
def storeWordAtPc (w : Word) (s : State) : State :=
  memWrite (memWrite s s.pc.toNat (highByte w)) (s.pc.toNat + 1) (lowByte w)

end Sys2Proof.Machine
end

