-- ==== Sys2Proof/Machine/Step.lean ====
section
/-! DEFINITION. The step of the machine: one operation, atomic (spec/60_exceptions.md R250). -/

namespace Sys2Proof.Machine

/-- One operation of the core: the host's next one, which is STEP where none is pending. -/
def step (s : State) : Host.Outcome State Fault Refusal := nextOp s

/-- `s` with the word of an instruction where the next STEP fetches it, ready to step: a program is loaded and no other operation is
pending (log 1). -/
def State.withFetchWord (s : State) (nbits w : Nat) : State :=
  { storeWordAtPc (tableWord nbits w) s with loaded := true, pending := [] }

end Sys2Proof.Machine
end

