-- ==== Sys2Proof/Safety.lean ====
section
/-! DEFINITION. The terms claims are stated in: the machine's invariant, what justifies a diagnostic, the registers an instruction may
write, the states a program cannot tell apart, and the self-jump that ends a program by convention. -/

namespace Sys2Proof.Machine

/-- The code of a diagnostic (spec/60_exceptions.md R252). -/
def Diagnostic.code : Diagnostic → Nat
  | .unrecognizedOpcode _ => 1
  | .pcRollover _ => 2
  | .fetchRange _ => 3
  | .stackOverflow _ _ => 4
  | .stackUnderflow _ => 5

/-- The condition under which a diagnostic may be emitted, as far as its info shows it (R252 to R257). -/
def Diagnostic.justified : Diagnostic → Prop
  | .unrecognizedOpcode w => ∀ r ∈ opcodeTable, r.selectedBy w = false
  | .pcRollover pc => pc.toNat + 2 > 0xFFFF
  | .fetchRange pc => pc.toNat ≥ 0x0FFF
  | .stackOverflow _ _ => True
  | .stackUnderflow _ => True

/-- Whether a port call asks for an input (R272, R274). -/
def PortCall.isInput : PortCall → Bool
  | .keyPressed _ => true
  | .randByte => true
  | .clearAll => false
  | .getPixel _ => false
  | .setPixel _ => false
  | .clearPixel _ => false

/-- The invariant of the machine: memory keeps its canonical form (log 15), every diagnostic in the log had its condition, and the input
queries counted are the input queries made (log 6, log 7, log 10). -/
def State.Inv (s : State) : Prop :=
  Memory.wf s.mem ∧ (∀ d ∈ s.log, d.justified) ∧ s.draws = s.calls.countP PortCall.isInput

/-- The V registers an instruction may write, the table of spec/10_state.md R23. -/
def regsWritten : Instr → List Reg
  | .ldImm x _ | .addImm x _ | .ldReg x _ | .orReg x _ | .andReg x _ | .xorReg x _ | .rnd x _ | .ldVxDt x => [x]
  | .addReg x _ | .sub x _ | .shr x _ | .subn x _ | .shl x _ => [x, vf]
  | .drw _ _ _ => [vf]
  | .loadRegs x => regsUpTo x
  | .cls | .ret | .jp _ | .call _ | .seImm _ _ | .sneImm _ _ | .seReg _ _ | .sneReg _ _ | .ldI _ | .jpV0 _ | .skp _ | .sknp _
  | .ldDtVx _ | .ldStVx _ | .addI _ | .ldF _ | .ldB _ | .storeRegs _ => []

/-- Two states that differ at most in stack entries at or above SP, which no instruction reads (spec/10_state.md R29). -/
def State.SameBelowSp (s t : State) : Prop :=
  t = { s with stack := t.stack } ∧ ∀ j (h : j < 16), j < s.sp.val → t.stack[j] = s.stack[j]

/-- The program has reached a jump to itself: the word at PC is 0x1000 | PC and PC ≤ 0x0FFF (spec/70_reset_and_hazards.md R315). -/
def State.AtSelfJump (s : State) : Prop := fetchWord s = (0x1000#16 ||| s.pc) ∧ s.pc.toNat ≤ 0x0FFF

/-- No operation of the host but STEP is next, and a program is loaded. -/
def State.Running (s : State) : Prop := s.loaded = true ∧ s.pending = []

/-- What a fetch at this PC reports, in order (spec/60_exceptions.md R260). -/
def fetchReports (pc : Word) : List Diagnostic :=
  (if pc.toNat ≥ 0x0FFF then [.fetchRange pc] else []) ++ (if pc.toNat + 2 > 0xFFFF then [.pcRollover pc] else [])

/-- What a skip from this PC reports (spec/40_control_flow.md R100). -/
def skipReports (pc : Word) : List Diagnostic := if pc.toNat + 2 > 0xFFFF then [.pcRollover pc] else []

end Sys2Proof.Machine
end

