-- ==== Sys2Proof/Certificates/Slice0/Obligations.lean ====
section
/-! DEFINITION. The statements for the provers. Each docstring names the rules of spec/ it formalises; a clause that rests on a choice
of the model or on a decision D<n> of the spec says so. `t = { s with f := t.f }` says that every field but f is as before. -/

open Sys2Proof Sys2Proof.Machine

/-! ### The instruction cycle and the encoding -/

/-- From R84, R83, R82: when the two bytes at PC decode to i, a STEP is `exec i` from the state the fetch leaves: PC advanced by 2 mod
65536 (D7) and the fetch's diagnostics appended (D7, D8), nothing else changed. That STEP is the next operation when none is pending is
the model's (log 8). -/
def Obligations.StepRunsTheDecodedInstruction : Prop :=
  ∀ (s : State) (i : Instr), s.Running →
    decode [memRead s s.pc.toNat, memRead s (s.pc.toNat + 1)] = .ok (i, []) →
    step s = exec i { s with pc := s.pc + 2#16, log := s.log ++ fetchReports s.pc }

/-- From R83, R85 (D39): EXECUTE(w) of a word that decodes to i is `exec i` with PC as it is: no fetch, no report of one, nothing else
changed before it. That the operation is the first pending one is the model's (log 8). -/
def Obligations.ExecuteRunsTheDecodedInstruction : Prop :=
  ∀ (s : State) (w : Word) (i : Instr) (rest : List HostOp), s.loaded = true → s.pending = .execute w :: rest →
    decodeWord w = .ok i → step s = exec i { s with pending := rest }

/-- From R82, R51, R54, R55: FETCH returns the big-endian word at PC, both addresses masked even past the end of memory (D8), advances PC
by 2 mod 65536 (D7), reports FETCH_RANGE (D8) and PC_ROLLOVER (D7) in this order under their conditions, and changes nothing else. Where
the returned word is kept is the model's choice (log 9). -/
def Obligations.FetchReturnsTheWordAtPc : Prop :=
  ∀ (s : State) (rest : List HostOp), s.loaded = true → s.pending = .fetch :: rest →
    ∃ (t : State) (w : Word), step s = .next t ∧ t.fetched = some w ∧
      w.toNat = (Memory.read s.mem (s.pc.toNat % 4096)).toNat * 256 + (Memory.read s.mem ((s.pc.toNat + 1) % 4096)).toNat ∧
      t.pc.toNat = (s.pc.toNat + 2) % 65536 ∧
      t.log = s.log ++ (if s.pc.toNat ≥ 0x0FFF then [.fetchRange s.pc] else []) ++
        (if s.pc.toNat + 2 > 0xFFFF then [.pcRollover s.pc] else []) ∧
      t = { s with pc := t.pc, log := t.log, fetched := t.fetched, pending := rest }

/-- From R80, R84, R85, R253: executing a word that no row of R78 selects reports UNRECOGNIZED_OPCODE and changes nothing else. EXECUTE of
it leaves PC as it was (D39); a STEP that fetches it leaves PC advanced by 2 mod 65536 (D7) and the reports of the fetch (D7, D8) before
that one. Which operation comes next is the model's list of pending operations (log 8). -/
def Obligations.UnrecognizedWordOnlyReports : Prop :=
  ∀ (s : State) (w : Word), s.loaded = true → (∀ r ∈ opcodeTable, w &&& r.mask ≠ r.value) →
    (∀ rest, s.pending = .execute w :: rest →
      step s = .next { s with pending := rest, log := s.log ++ [.unrecognizedOpcode w] }) ∧
    (s.pending = [] → fetchWord s = w →
      step s = .next { s with pc := s.pc + 2#16, log := s.log ++ fetchReports s.pc ++ [.unrecognizedOpcode w] })

/-- R78: the decoder and the match and mask table are the same list: a word decodes to an instruction of row k exactly when it selects
row k, so a word that selects no row is rejected. -/
def Obligations.DecoderAgreesWithOpcodeTable : Prop :=
  ∀ (w : Word) (k : Nat), (∃ i, decodeWord w = .ok i ∧ i.row = k) ↔ (∃ r ∈ opcodeTable, r.num = k ∧ w &&& r.mask = r.value)

/-- From R78: "at most one row matches any word". -/
def Obligations.AtMostOneRowMatches : Prop :=
  ∀ (w : Word) (r r' : OpcodeRow), r ∈ opcodeTable → r' ∈ opcodeTable → w &&& r.mask = r.value → w &&& r'.mask = r'.value → r = r'

/-- Decode and encode agree: every well-formed instruction, with every operand at every value, is what its word decodes to. -/
def Obligations.DecodeOfEncode : Prop :=
  ∀ i : Instr, i.wellFormed = true → decodeWord (encode i) = .ok i

/-- The other direction: a word that decodes to an instruction is that instruction's word, and the instruction is well formed; so an
instruction has one word. -/
def Obligations.EncodeOfDecode : Prop :=
  ∀ (w : Word) (i : Instr), decodeWord w = .ok i → encode i = w ∧ i.wellFormed = true

/-- From R79, R77, R76 (D10, D11): the unrecognized words, group by group. -/
def Obligations.UnrecognizedWordsByGroup : Prop :=
  ∀ w : Word, (∃ e, decodeWord w = .error e) ↔
    (w.toNat / 4096 = 0x0 ∧ w.toNat ≠ 0x00E0 ∧ w.toNat ≠ 0x00EE) ∨
    (w.toNat / 4096 = 0x5 ∧ w.toNat % 16 ≠ 0) ∨
    (w.toNat / 4096 = 0x8 ∧ w.toNat % 16 ∈ [0x8, 0x9, 0xA, 0xB, 0xC, 0xD, 0xF]) ∨
    (w.toNat / 4096 = 0x9 ∧ w.toNat % 16 ≠ 0) ∨
    (w.toNat / 4096 = 0xE ∧ w.toNat % 256 ∉ [0x9E, 0xA1]) ∨
    (w.toNat / 4096 = 0xF ∧ w.toNat % 256 ∉ [0x07, 0x15, 0x18, 0x1E, 0x29, 0x33, 0x55, 0x65])

/-- From R72, R78: words written out from the encodings of the spec decode to the instructions they stand for, one or more of each family. -/
def Obligations.SampleWordsDecode : Prop :=
  decodeWord 0x00E0 = .ok .cls ∧ decodeWord 0x00EE = .ok .ret ∧ decodeWord 0x1ABC = .ok (.jp 0xABC) ∧
  decodeWord 0x322A = .ok (.seImm 2 0x2A) ∧ decodeWord 0x5010 = .ok (.seReg 0 1) ∧ decodeWord 0x6A2F = .ok (.ldImm 0xA 0x2F) ∧
  decodeWord 0x8014 = .ok (.addReg 0 1) ∧ decodeWord 0x801E = .ok (.shl 0 1) ∧ decodeWord 0xA120 = .ok (.ldI 0x120) ∧
  decodeWord 0xD125 = .ok (.drw 1 2 5) ∧ decodeWord 0xE5A1 = .ok (.sknp 5) ∧ decodeWord 0xF307 = .ok (.ldVxDt 3) ∧
  decodeWord 0xF255 = .ok (.storeRegs 2) ∧ decodeWord 0x8008 = .error (.unrecognized 0x8008) ∧
  decodeWord 0xF00A = .error (.unrecognized 0xF00A)

/-! ### Control transfer -/

/-- From R104, R105, R100: SE and SNE with a byte complete; they add 2 to PC mod 65536 (D7) exactly when the comparison holds, report
PC_ROLLOVER exactly when that addition carries (D7), and change nothing else. -/
def Obligations.ImmediateSkips : Prop :=
  ∀ (x : Reg) (kk : Byte) (s : State),
    (∃ t, exec (.seImm x kk) s = .next t ∧
      t.pc.toNat = (if s.reg x = kk then (s.pc.toNat + 2) % 65536 else s.pc.toNat) ∧
      t.log = s.log ++ (if s.reg x = kk then skipReports s.pc else []) ∧ t = { s with pc := t.pc, log := t.log }) ∧
    (∃ t, exec (.sneImm x kk) s = .next t ∧
      t.pc.toNat = (if s.reg x = kk then s.pc.toNat else (s.pc.toNat + 2) % 65536) ∧
      t.log = s.log ++ (if s.reg x = kk then [] else skipReports s.pc) ∧ t = { s with pc := t.pc, log := t.log })

/-- From R106, R107, R100: SE and SNE with two registers complete; they add 2 to PC mod 65536 (D7) exactly when the comparison holds,
report PC_ROLLOVER exactly when that addition carries (D7), and change nothing else. -/
def Obligations.RegisterSkips : Prop :=
  ∀ (x y : Reg) (s : State),
    (∃ t, exec (.seReg x y) s = .next t ∧
      t.pc.toNat = (if s.reg x = s.reg y then (s.pc.toNat + 2) % 65536 else s.pc.toNat) ∧
      t.log = s.log ++ (if s.reg x = s.reg y then skipReports s.pc else []) ∧ t = { s with pc := t.pc, log := t.log }) ∧
    (∃ t, exec (.sneReg x y) s = .next t ∧
      t.pc.toNat = (if s.reg x = s.reg y then s.pc.toNat else (s.pc.toNat + 2) % 65536) ∧
      t.log = s.log ++ (if s.reg x = s.reg y then [] else skipReports s.pc) ∧ t = { s with pc := t.pc, log := t.log })

/-- From R102, R108: JP addr sets PC to nnn and JP V0,addr to nnn + V0, unmasked (D9); nothing else changes, nothing is reported. -/
def Obligations.JumpsSetPcOnly : Prop :=
  ∀ (nnn : Nnn) (s : State),
    (∃ t, exec (.jp nnn) s = .next t ∧ t.pc.toNat = nnn.toNat ∧ t = { s with pc := t.pc }) ∧
    (∃ t, exec (.jpV0 nnn) s = .next t ∧ t.pc.toNat = nnn.toNat + (s.reg 0).toNat ∧ t = { s with pc := t.pc })

/-- From R103, R252: CALL completes and sets PC to nnn in every state. With SP below 16 it writes PC into STACK[SP] and increments SP, and
every other entry is unchanged; with SP = 16 (the full stack: D4) it reports STACK_OVERFLOW with PC and nnn (D27) and refuses the push
(D5). Nothing else changes. -/
def Obligations.CallPushesReturnAddress : Prop :=
  ∀ (nnn : Nnn) (s : State),
    (∀ h : s.sp.val < 16, ∃ t, exec (.call nnn) s = .next t ∧ t.stack[s.sp.val] = s.pc ∧ t.sp.val = s.sp.val + 1 ∧
      t.pc.toNat = nnn.toNat ∧ (∀ j (hj : j < 16), j ≠ s.sp.val → t.stack[j] = s.stack[j]) ∧
      t = { s with pc := t.pc, sp := t.sp, stack := t.stack }) ∧
    (s.sp.val = 16 → ∃ t, exec (.call nnn) s = .next t ∧ t.pc.toNat = nnn.toNat ∧ t.log = s.log ++ [.stackOverflow s.pc nnn] ∧
      t = { s with pc := t.pc, log := t.log })

/-- From R101: RET completes in every state. With SP above 0 it decrements SP (D4) and sets PC to STACK[SP], the popped entry unchanged;
with SP = 0 it reports STACK_UNDERFLOW and leaves PC and SP (D6). Nothing else changes. -/
def Obligations.RetPopsReturnAddress : Prop :=
  ∀ s : State,
    (∀ h : 0 < s.sp.val, ∃ t, exec .ret s = .next t ∧ t.sp.val = s.sp.val - 1 ∧ t.pc = s.stack[s.sp.val - 1] ∧
      t = { s with pc := t.pc, sp := t.sp }) ∧
    (s.sp.val = 0 → exec .ret s = .next { s with log := s.log ++ [.stackUnderflow s.pc] })

/-- From R109 (D4): a CALL at P that does not overflow, followed by a RET at its target, restores PC to P + 2 mod 65536 and SP. -/
def Obligations.CallThenRetReturns : Prop :=
  ∀ (nnn : Nnn) (s : State), s.Running → s.sp.val < 16 → decodeWord (fetchWord s) = .ok (.call nnn) →
    decodeWord (fetchWord { s with pc := nnn.setWidth 16 }) = .ok .ret →
    ∃ t u, step s = .next t ∧ step t = .next u ∧ u.pc.toNat = (s.pc.toNat + 2) % 65536 ∧ u.sp = s.sp ∧
      u = { s with pc := u.pc, stack := u.stack, log := u.log } ∧ ∀ j (h : j < 16), j ≠ s.sp.val → u.stack[j] = s.stack[j]

/-- From R315 (D35): at a self-jump a STEP completes and is a fixed point of PC, SP, I, memory, V0..VF and all the rest but the log (which takes a
FETCH_RANGE when PC = 0x0FFF). -/
def Obligations.SelfJumpIsAFixedPoint : Prop :=
  ∀ s : State, s.Running → s.AtSelfJump → ∃ t, step s = .next t ∧ t = { s with log := s.log ++ fetchReports s.pc }

/-! ### Register loads and ALU -/

/-- From R131, R133, R134, R135, R136: LD Vx,kk, LD Vx,Vy, OR, AND and XOR complete with the value the rule gives in Vx, computed from
the old operands; no other register and nothing else changes. That OR, AND and XOR keep VF is the decision D44. -/
def Obligations.LoadsAndLogicWriteVxOnly : Prop :=
  ∀ (x y : Reg) (kk : Byte) (s : State),
    ∀ iv ∈ [(Instr.ldImm x kk, kk), (.ldReg x y, s.reg y), (.orReg x y, s.reg x ||| s.reg y), (.andReg x y, s.reg x &&& s.reg y),
        (.xorReg x y, s.reg x ^^^ s.reg y)],
      ∃ t, exec iv.1 s = .next t ∧ t.reg x = iv.2 ∧ (∀ r, r ≠ x → t.reg r = s.reg r) ∧ t = { s with v := t.v }

/-- R132: ADD Vx,kk completes with (Vx + kk) mod 256 in Vx; VF is not written as a carry, and nothing else changes. -/
def Obligations.AddImmediateIsSilent : Prop :=
  ∀ (x : Reg) (kk : Byte) (s : State),
    ∃ t, exec (.addImm x kk) s = .next t ∧ (t.reg x).toNat = ((s.reg x).toNat + kk.toNat) % 256 ∧
      (∀ r, r ≠ x → t.reg r = s.reg r) ∧ t = { s with v := t.v }

/-- From R137: ADD Vx,Vy completes with the sum mod 256 in Vx and, for x ≠ F, VF = 1 exactly when the sum exceeds 255, from the old
operands (y = F adds the old VF); for x = F the result stays in VF (D3). Nothing else changes. -/
def Obligations.AddSetsCarry : Prop :=
  ∀ (x y : Reg) (s : State),
    ∃ t, exec (.addReg x y) s = .next t ∧ (t.reg x).toNat = ((s.reg x).toNat + (s.reg y).toNat) % 256 ∧
      (x ≠ vf → t.reg vf = (if (s.reg x).toNat + (s.reg y).toNat > 255 then 1 else 0)) ∧
      (∀ r, r ≠ x → r ≠ vf → t.reg r = s.reg r) ∧ t = { s with v := t.v }

/-- From R138, R140: SUB and SUBN complete with the difference mod 256 in Vx and, for x ≠ F, VF = 1 exactly when the minuend is strictly
greater, from the old operands; for x = F the result stays in VF (D3). Nothing else changes. -/
def Obligations.SubtractSetsNoBorrow : Prop :=
  ∀ (x y : Reg) (s : State),
    (∃ t, exec (.sub x y) s = .next t ∧ (t.reg x).toNat = ((s.reg x).toNat + 256 - (s.reg y).toNat) % 256 ∧
      (x ≠ vf → t.reg vf = (if (s.reg x).toNat > (s.reg y).toNat then 1 else 0)) ∧
      (∀ r, r ≠ x → r ≠ vf → t.reg r = s.reg r) ∧ t = { s with v := t.v }) ∧
    (∃ t, exec (.subn x y) s = .next t ∧ (t.reg x).toNat = ((s.reg y).toNat + 256 - (s.reg x).toNat) % 256 ∧
      (x ≠ vf → t.reg vf = (if (s.reg y).toNat > (s.reg x).toNat then 1 else 0)) ∧
      (∀ r, r ≠ x → r ≠ vf → t.reg r = s.reg r) ∧ t = { s with v := t.v })

/-- From R139, R141: SHR and SHL complete with the source shifted by one in Vx and, for x ≠ F, the bit shifted out in VF; the source is
Vy when SHIFT_QUIRK, read when the instruction executes (D31), is set and Vx otherwise; for x = F the result stays in VF (D3). Nothing
else changes. -/
def Obligations.ShiftsMoveOneBitIntoVf : Prop :=
  ∀ (x y : Reg) (s : State) (src : Nat), src = (if s.shiftQuirk then s.reg y else s.reg x).toNat →
    (∃ t, exec (.shr x y) s = .next t ∧ (t.reg x).toNat = src / 2 ∧ (x ≠ vf → (t.reg vf).toNat = src % 2) ∧
      (∀ r, r ≠ x → r ≠ vf → t.reg r = s.reg r) ∧ t = { s with v := t.v }) ∧
    (∃ t, exec (.shl x y) s = .next t ∧ (t.reg x).toNat = src * 2 % 256 ∧ (x ≠ vf → (t.reg vf).toNat = src / 128) ∧
      (∀ r, r ≠ x → r ≠ vf → t.reg r = s.reg r) ∧ t = { s with v := t.v })

/-- From R38, R130 (the spec's decision D3): with x = F the five flag-writing instructions complete and VF holds the arithmetic result, not
the flag; no other register and nothing else changes. -/
def Obligations.VfDestinationKeepsTheResult : Prop :=
  ∀ (y : Reg) (s : State) (a b src : Nat), a = (s.reg vf).toNat → b = (s.reg y).toNat →
    src = (if s.shiftQuirk then b else a) →
    ∀ iv ∈ [(Instr.addReg vf y, (a + b) % 256), (.sub vf y, (a + 256 - b) % 256), (.shr vf y, src / 2),
        (.subn vf y, (b + 256 - a) % 256), (.shl vf y, src * 2 % 256)],
      ∃ t, exec iv.1 s = .next t ∧ (t.reg vf).toNat = iv.2 ∧ (∀ r, r ≠ vf → t.reg r = s.reg r) ∧ t = { s with v := t.v }

/-- From R142, R274 (D20): RND completes with r & kk in Vx for whatever byte r the random port gives, one draw per execution; no other
register changes. That a byte of randIn is taken first, that otherwise the byte is the free value at draws, and that draws counts the
draw are the model's choice (log 7). -/
def Obligations.RndMasksOneFreeByte : Prop :=
  ∀ (x : Reg) (kk : Byte) (s : State),
    ∃ (t : State) (r : Byte), exec (.rnd x kk) s = .next t ∧ t.reg x = r &&& kk ∧
      (∀ r' rest, s.randIn = r' :: rest → r = r' ∧ t.randIn = rest) ∧
      (s.randIn = [] → r = Config.freeByte s.draws ∧ t.randIn = []) ∧
      (∀ q, q ≠ x → t.reg q = s.reg q) ∧ t.draws = s.draws + 1 ∧ t.calls = s.calls ++ [.randByte] ∧
      t = { s with v := t.v, randIn := t.randIn, draws := t.draws, calls := t.calls }

/-! ### Index register and memory transfers -/

/-- From R171, R172, R173: LD I, ADD I and LD F complete with the value the rule gives in I: mod 65536 and without a flag for ADD I (D14),
the whole byte times 5 for LD F (D15); nothing else, VF among it, changes. -/
def Obligations.IndexInstructionsWriteIOnly : Prop :=
  ∀ (nnn : Nnn) (x : Reg) (s : State),
    ∀ iv ∈ [(Instr.ldI nnn, nnn.toNat), (.addI x, (s.i.toNat + (s.reg x).toNat) % 65536), (.ldF x, (s.reg x).toNat * 5)],
      ∃ t, exec iv.1 s = .next t ∧ t.i.toNat = iv.2 ∧ t = { s with i := t.i }

/-- From R174 (digit order D13): LD B completes with the hundreds, tens and ones digit of Vx in the bytes at I, I + 1 and I + 2, masked;
every other byte of memory, I and everything else are unchanged. -/
def Obligations.BcdStoresThreeDigits : Prop :=
  ∀ (x : Reg) (s : State),
    ∃ t, exec (.ldB x) s = .next t ∧
      (memRead t (indexAddr s 0)).toNat = (s.reg x).toNat / 100 ∧
      (memRead t (indexAddr s 1)).toNat = (s.reg x).toNat / 10 % 10 ∧
      (memRead t (indexAddr s 2)).toNat = (s.reg x).toNat % 10 ∧
      (∀ a, (∀ k < 3, maskAddr a ≠ maskAddr (indexAddr s k)) → memRead t a = memRead s a) ∧ t = { s with mem := t.mem }

/-- From R175: LD [I],Vx completes with Vk in the byte at I + k, masked, for k = 0..x; every other byte of memory, I (D12) and everything
else are unchanged. -/
def Obligations.StoreRegistersWritesV0ToVx : Prop :=
  ∀ (x : Reg) (s : State),
    ∃ t, exec (.storeRegs x) s = .next t ∧ (∀ k : Reg, k ≤ x → memRead t (indexAddr s k) = s.reg k) ∧
      (∀ a, (∀ k : Reg, k ≤ x → maskAddr a ≠ maskAddr (indexAddr s k)) → memRead t a = memRead s a) ∧ t = { s with mem := t.mem }

/-- From R176: LD Vx,[I] completes with the byte at I + k, masked, in Vk for k = 0..x; the registers above Vx, memory, I (D12) and
everything else are unchanged. -/
def Obligations.LoadRegistersReadsV0ToVx : Prop :=
  ∀ (x : Reg) (s : State),
    ∃ t, exec (.loadRegs x) s = .next t ∧ (∀ k : Reg, k ≤ x → t.reg k = memRead s (indexAddr s k)) ∧
      (∀ k : Reg, x < k → t.reg k = s.reg k) ∧ t = { s with v := t.v }

/-- From R177: Fx55, any change of the registers, and Fx65 with the same x and I restore V0..Vx to what they were before the Fx55. -/
def Obligations.StoreThenLoadRestoresRegisters : Prop :=
  ∀ (x : Reg) (s t : State) (v' : Vector Byte 16), exec (.storeRegs x) s = .next t →
    ∃ u, exec (.loadRegs x) { t with v := v' } = .next u ∧ (∀ k : Reg, k ≤ x → u.reg k = s.reg k) ∧
      (∀ k : Reg, x < k → u.reg k = v'[k]) ∧ u.i = s.i

/-- From R63 (D30): a byte stored over the next instruction is seen by the very next fetch, whichever of its two bytes it is: a byte stored
by Fx55, a digit stored by Fx33 (digit order D13), and the first two bytes of an image that LOAD copies. -/
def Obligations.NextFetchSeesTheStore : Prop :=
  ∀ s t : State,
    (∀ x k : Reg, exec (.storeRegs x) s = .next t → k ≤ x →
      (maskAddr (indexAddr s k) = maskAddr s.pc.toNat → highByte (fetchWord t) = s.reg k) ∧
      (maskAddr (indexAddr s k) = maskAddr (s.pc.toNat + 1) → lowByte (fetchWord t) = s.reg k)) ∧
    (∀ x : Reg, exec (.ldB x) s = .next t →
      ∀ kd ∈ [(0, (s.reg x).toNat / 100), (1, (s.reg x).toNat / 10 % 10), (2, (s.reg x).toNat % 10)],
        (maskAddr (indexAddr s kd.1) = maskAddr s.pc.toNat → (highByte (fetchWord t)).toNat = kd.2) ∧
        (maskAddr (indexAddr s kd.1) = maskAddr (s.pc.toNat + 1) → (lowByte (fetchWord t)).toNat = kd.2)) ∧
    (∀ (rom : List Byte) (rest : List HostOp), s.pending = .load rom :: rest → step s = .next t →
      (∀ h : 0 < rom.length, highByte (fetchWord t) = rom[0]) ∧ (∀ h : 1 < rom.length, lowByte (fetchWord t) = rom[1]))

/-! ### Display and input -/

/-- R201: CLS completes with one DispClearAll() call, every pixel clear, and nothing else changed. -/
def Obligations.ClsClearsEveryPixel : Prop :=
  ∀ s : State, ∃ t, exec .cls s = .next t ∧ (∀ p, pixelLit t.display p = false) ∧ t.calls = s.calls ++ [.clearAll] ∧
    t = { s with display := t.display, calls := t.calls }

/-- From R202, R203: DRW completes; it complements exactly the on-screen pixels whose sprite bit is 1 (start wrapped, body clipped, rows read
most significant bit first at I + r masked), VF = 1 exactly when one of them was lit, and no other register, memory or anything else but
the port calls changes. Coordinates come from the old registers (D17); n = 0 draws nothing (D16). -/
def Obligations.DrwTogglesSpriteAndReportsCollision : Prop :=
  ∀ (x y : Reg) (n : Nat) (s : State) (S : Pixel → Prop),
    (∀ p : Pixel, S p ↔ ∃ r c : Nat, r < n ∧ c < 8 ∧ (memRead s (s.i.toNat + r)).getLsbD (7 - c) = true ∧
      p.1.val = (s.reg x).toNat % 64 + c ∧ p.2.val = (s.reg y).toNat % 32 + r) →
    ∃ t, exec (.drw x y n) s = .next t ∧
      (∀ p, S p → pixelLit t.display p = !pixelLit s.display p) ∧ (∀ p, ¬ S p → pixelLit t.display p = pixelLit s.display p) ∧
      ((∃ p, S p ∧ pixelLit s.display p = true) → t.reg vf = 1) ∧ ((∀ p, S p → pixelLit s.display p = false) → t.reg vf = 0) ∧
      (∀ r, r ≠ vf → t.reg r = s.reg r) ∧ t = { s with v := t.v, display := t.display, calls := t.calls }

/-- From R203: with S the on-screen pixels whose sprite bit is 1, drawing the same sprite twice at the same place restores the display, and
the second draw's VF is 1 exactly when some pixel of S was unlit before the first draw. Coordinate registers other than VF keep the
place. -/
def Obligations.DrawingTwiceRestoresTheDisplay : Prop :=
  ∀ (x y : Reg) (n : Nat) (s t : State) (S : Pixel → Prop), x ≠ vf → y ≠ vf →
    (∀ p : Pixel, S p ↔ ∃ r c : Nat, r < n ∧ c < 8 ∧ (memRead s (s.i.toNat + r)).getLsbD (7 - c) = true ∧
      p.1.val = (s.reg x).toNat % 64 + c ∧ p.2.val = (s.reg y).toNat % 32 + r) →
    exec (.drw x y n) s = .next t →
    ∃ u, exec (.drw x y n) t = .next u ∧ u.display = s.display ∧ (u.reg vf = 1 ↔ ∃ p, S p ∧ pixelLit s.display p = false)

/-- From R202's call order, the spec's decision D21: for rows 0..n-1 in ascending order and in each for columns 0..7 in ascending order,
a 1-bit that is on screen makes one DispGet, followed by DispClear if the pixel was lit before the draw and DispSet otherwise; a 0-bit
and a bit off screen make no call. -/
def Obligations.DrwCallsRowByRow : Prop :=
  ∀ (x y : Reg) (n : Nat) (s : State), ∃ t, exec (.drw x y n) s = .next t ∧
    t.calls = s.calls ++ (List.range n).flatMap fun r => (List.range 8).flatMap fun c =>
      if h : (s.reg x).toNat % 64 + c < 64 ∧ (s.reg y).toNat % 32 + r < 32 then
        if (memRead s (s.i.toNat + r)).getLsbD (7 - c) then
          [.getPixel (⟨_, h.1⟩, ⟨_, h.2⟩),
            if pixelLit s.display (⟨_, h.1⟩, ⟨_, h.2⟩) then .clearPixel (⟨_, h.1⟩, ⟨_, h.2⟩) else .setPixel (⟨_, h.1⟩, ⟨_, h.2⟩)]
        else []
      else []

/-- From R204, R205, R272, R273, R100: SKP and SKNP complete for whatever key state m the input port answers with (D19): one query, of the
key in the low nibble of Vx (D18); PC + 2 mod 65536 exactly when that key is pressed (SKP) or not pressed (SKNP), with PC_ROLLOVER on a
carry (D7); nothing else changes. That a sample of keyIn is taken first, that otherwise the sample is the free value at draws, and that
draws counts the query are the model's choice (log 6). -/
def Obligations.KeySkipsFollowTheKey : Prop :=
  ∀ (x : Reg) (s : State), ∃ (m : BitVec 16) (pressed : Bool),
    (∀ m' rest, s.keyIn = m' :: rest → m = m') ∧ (s.keyIn = [] → m = Config.freeKeys s.draws) ∧
    pressed = m.getLsbD ((s.reg x).toNat % 16) ∧
    ∀ ib ∈ [(Instr.skp x, pressed), (.sknp x, !pressed)],
      ∃ t, exec ib.1 s = .next t ∧ t.pc.toNat = (if ib.2 then (s.pc.toNat + 2) % 65536 else s.pc.toNat) ∧
        t.log = s.log ++ (if ib.2 then skipReports s.pc else []) ∧ t.draws = s.draws + 1 ∧ t.keyIn = s.keyIn.tail ∧
        (∃ k : Key, k.val = (s.reg x).toNat % 16 ∧ t.calls = s.calls ++ [.keyPressed k]) ∧
        t = { s with pc := t.pc, log := t.log, draws := t.draws, keyIn := t.keyIn, calls := t.calls }

/-! ### Timers -/

/-- R231, R232, R233: LD Vx,DT, LD DT,Vx and LD ST,Vx complete with the value moved and nothing else changed. -/
def Obligations.TimerInstructionsMoveOneByte : Prop :=
  ∀ (x : Reg) (s : State),
    (∃ t, exec (.ldVxDt x) s = .next t ∧ t.reg x = s.dt ∧ (∀ r, r ≠ x → t.reg r = s.reg r) ∧ t = { s with v := t.v }) ∧
    (∃ t, exec (.ldDtVx x) s = .next t ∧ t.dt = s.reg x ∧ t = { s with dt := t.dt }) ∧
    (∃ t, exec (.ldStVx x) s = .next t ∧ t.st = s.reg x ∧ t = { s with st := t.st })

/-- R265: TICK decrements each timer by exactly 1 if and only if it is not zero, independently, and touches nothing else. -/
def Obligations.TickDecrementsNonzeroTimers : Prop :=
  ∀ (s : State) (rest : List HostOp), s.pending = .tick :: rest →
    ∃ t, step s = .next t ∧ t.dt.toNat = s.dt.toNat - 1 ∧ t.st.toNat = s.st.toNat - 1 ∧
      t = { s with dt := t.dt, st := t.st, pending := rest }

/-- From R230, R30, R31: executing an instruction changes DT only if it is LD DT,Vx, and ST only if it is LD ST,Vx. -/
def Obligations.OnlyTimerLoadsChangeTimers : Prop :=
  ∀ (i : Instr) (s t : State), exec i s = .next t →
    (t.dt ≠ s.dt → ∃ x, i = .ldDtVx x) ∧ (t.st ≠ s.st → ∃ x, i = .ldStVx x)

/-- From R31: no instruction reads ST: a run that differs only in ST takes the same step and differs only in ST after it. -/
def Obligations.NoInstructionReadsSt : Prop :=
  ∀ (i : Instr) (s t : State) (b : Byte), exec i s = .next t →
    exec i { s with st := b } = .next { t with st := if ∃ x, i = .ldStVx x then t.st else b }

/-! ### Who may change what -/

/-- From R23, R32, R22: a V register that an instruction changes is one the table of R23 gives it; in particular VF is changed only by the
six flag-writing instructions or as a named destination. -/
def Obligations.OnlyListedRegistersChange : Prop :=
  ∀ (i : Instr) (s t : State) (r : Reg), exec i s = .next t → t.reg r ≠ s.reg r → r ∈ regsWritten i

/-- From R28, R29 (D4): only CALL changes the stack, and only CALL and RET change SP, by exactly one. -/
def Obligations.OnlyCallAndRetMoveSp : Prop :=
  ∀ (i : Instr) (s t : State), exec i s = .next t →
    (t.stack ≠ s.stack → ∃ nnn, i = .call nnn) ∧
    (t.sp ≠ s.sp → (∃ nnn, i = .call nnn ∧ t.sp.val = s.sp.val + 1) ∨ (i = .ret ∧ t.sp.val + 1 = s.sp.val))

/-- From R27 (D12): only LD I, ADD I and LD F change I. -/
def Obligations.OnlyIndexInstructionsChangeI : Prop :=
  ∀ (i : Instr) (s t : State), exec i s = .next t → t.i ≠ s.i → (∃ nnn, i = .ldI nnn) ∨ ∃ x, i = .addI x ∨ i = .ldF x

/-- From R53, R52: only LD B and LD [I],Vx change memory, and only CLS and DRW change the display. From R34, R35, R297: no instruction
changes the shift quirk, IPF or whether a program is loaded; nor does one change the model's own fields pending and fetched (log 8,
log 9). -/
def Obligations.OnlyStoresAndDrawsReachMemoryAndDisplay : Prop :=
  ∀ (i : Instr) (s t : State), exec i s = .next t →
    (t.mem ≠ s.mem → ∃ x, i = .ldB x ∨ i = .storeRegs x) ∧
    (t.display ≠ s.display → i = .cls ∨ ∃ x y n, i = .drw x y n) ∧
    t.shiftQuirk = s.shiftQuirk ∧ t.ipf = s.ipf ∧ t.loaded = s.loaded ∧ t.pending = s.pending ∧ t.fetched = s.fetched

/-- From R34, R75 (D31): the shift quirk changes only what SHR and SHL compute: every other instruction takes the same step with the quirk set or
not. -/
def Obligations.QuirkReachesOnlyShifts : Prop :=
  ∀ (i : Instr) (s t : State) (q : Bool), (∀ x y, i ≠ .shr x y ∧ i ≠ .shl x y) → exec i s = .next t →
    exec i { s with shiftQuirk := q } = .next { t with shiftQuirk := q }

/-! ### Errors are diagnostics -/

/-- From R251, R263 (D29): the core has no exceptions, traps or faults: every instruction completes in every state, and once a program is loaded a
STEP does, whatever word is at PC. -/
def Obligations.NothingStopsTheCore : Prop :=
  (∀ (i : Instr) (s : State), ∃ t, exec i s = .next t) ∧ (∀ s : State, s.Running → ∃ t, step s = .next t)

/-- From R252, R260 (D42): a STEP appends to the log the reports of the fetch in their order and then at most one of the execution phase, and
clears nothing. -/
def Obligations.StepReportsInOrder : Prop :=
  ∀ s t : State, s.Running → step s = .next t →
    ∃ ds : List Diagnostic, t.log = s.log ++ fetchReports s.pc ++ ds ∧ ds.length ≤ 1 ∧ ∀ d ∈ ds, ∀ pc, d ≠ .fetchRange pc

/-- From R252 (D27): the log is append-only: no operation of the host, LOAD among them, removes or changes an event. -/
def Obligations.LogIsAppendOnly : Prop :=
  ∀ s t : State, step s = .next t → ∃ ds, t.log = s.log ++ ds

/-- From R252 (D27): no instruction can read whether a diagnostic occurred: with any other log the same step is taken, and the same events are
appended. -/
def Obligations.DiagnosticsAreInvisible : Prop :=
  ∀ (i : Instr) (s t : State) (l : List Diagnostic), exec i s = .next t →
    ∃ ds, t.log = s.log ++ ds ∧ exec i { s with log := l } = .next { t with log := l ++ ds }

/-- From R29 (D41): stack entries at index ≥ SP are not observable: two states that differ at most there take the same operation to states that
differ at most there. -/
def Obligations.EntriesAboveSpAreUnobservable : Prop :=
  ∀ s s' t : State, s.SameBelowSp s' → step s = .next t → ∃ t', step s' = .next t' ∧ t.SameBelowSp t'

/-! ### Reset, load and the host's operations -/

/-- From R20, R57, R293 (D25): the reset state: every register and stack entry 0, SP 0, PC at the reset vector 0x0200, the log empty. That reset is
the state after a first LOAD is the model's choice (log 1). -/
def Obligations.ResetValues : Prop :=
  (∀ r, State.reset.reg r = 0) ∧ State.reset.i = 0 ∧ State.reset.pc = 0x0200 ∧ State.reset.sp = 0 ∧
  (∀ j (h : j < 16), State.reset.stack[j] = 0) ∧ State.reset.dt = 0 ∧ State.reset.st = 0 ∧ State.reset.log = []

/-- From R291, R292, R297: construction with any parameters: registers zeroed, PC 0 (D24), FONT at 0x000..0x04F and 0x00 in the rest of
memory (D23), the log empty; display (D21), quirk and IPF are the parameters; no program is loaded, so a STEP is refused (D24). That the
host asks for nothing yet is the model's (log 8). -/
def Obligations.ConstructionState : Prop :=
  ∀ p : Params, ∃ s, s = State.construct p ∧ (∀ r, s.reg r = 0) ∧ s.i = 0 ∧ s.pc = 0 ∧ s.sp = 0 ∧
    (∀ j (h : j < 16), s.stack[j] = 0) ∧ s.dt = 0 ∧ s.st = 0 ∧ s.log = [] ∧
    (∀ a (h : a < 80), Memory.read s.mem a = p.font[a]) ∧ (∀ a, 80 ≤ a → a < 4096 → Memory.read s.mem a = 0) ∧
    s.display = p.display0 ∧ s.shiftQuirk = p.shiftQuirk ∧ s.ipf = p.ipf ∧
    s.loaded = false ∧ s.pending = [] ∧ step s = .refused .notLoaded

/-- From R293, R294, R296: LOAD of an image of at most 3584 bytes completes with every register, the stack and SP zeroed, PC = 0x0200 and
the image at 0x200; which registers it zeroes, and that every other byte of memory, the display, the quirk, IPF and the log (D27) are
kept, is decision D25. LOAD of a longer one is refused (D26). The host's list of operations is the model's (log 8). -/
def Obligations.LoadResetsAndCopiesImage : Prop :=
  ∀ (rom : List Byte) (s : State) (rest : List HostOp), s.pending = .load rom :: rest →
    (rom.length ≤ 3584 →
      ∃ t, step s = .next t ∧ (∀ r, t.reg r = 0) ∧ t.i = 0 ∧ t.dt = 0 ∧ t.st = 0 ∧ t.sp = 0 ∧ (∀ j (h : j < 16), t.stack[j] = 0) ∧
        t.pc = 0x0200 ∧ (∀ k (h : k < rom.length), Memory.read t.mem (0x200 + k) = rom[k]) ∧
        (∀ a, a < 0x200 ∨ 0x200 + rom.length ≤ a → Memory.read t.mem a = Memory.read s.mem a) ∧ t.loaded = true ∧
        t = { s with v := t.v, i := t.i, dt := t.dt, st := t.st, sp := t.sp, stack := t.stack, pc := t.pc, mem := t.mem,
                     loaded := t.loaded, pending := rest }) ∧
    (rom.length > 3584 → step s = .refused .imageTooLong)

/-- From R295, R297 (D26, D24): LOAD of more than 3584 bytes is refused, STEP, FETCH and EXECUTE are refused before the first LOAD, and no
operation is refused for any other reason. -/
def Obligations.RefusalsAreExactlyTheTwo : Prop :=
  ∀ (s : State) (op : HostOp) (rest : List HostOp), s.pending = op :: rest →
    (step s = .refused .imageTooLong ↔ ∃ rom, op = .load rom ∧ rom.length > 3584) ∧
    (step s = .refused .notLoaded ↔ s.loaded = false ∧ (op = .step ∨ op = .fetch ∨ ∃ w, op = .execute w)) ∧
    (∀ r, step s = .refused r → r = .imageTooLong ∨ r = .notLoaded) ∧
    (step { s with pending := [] } = .refused .notLoaded ↔ s.loaded = false) ∧
    (∀ r, step { s with pending := [] } = .refused r → r = .notLoaded)

/-- From R278, R312, R303 (D31, D32): SET_QUIRK sets the quirk and the rate change sets IPF, each between operations and with nothing else changed. -/
def Obligations.ConfigurationOperations : Prop :=
  ∀ (s : State) (rest : List HostOp),
    (∀ b, s.pending = .setQuirk b :: rest → step s = .next { s with shiftQuirk := b, pending := rest }) ∧
    (∀ n, s.pending = .setIpf n :: rest → step s = .next { s with ipf := n, pending := rest })

/-- From R313, R312 (D33, D32): a frame is IPF STEPs, as they would run alone, then a TICK: after its start and those STEPs the TICK is next, in the
state that IPF STEPs reach. -/
def Obligations.FrameIsIpfStepsThenTick : Prop :=
  ∀ (s : State) (rest : List HostOp), s.Running →
    ∃ t, Host.Core.run Sys2Proof.core s.ipf s = .next t ∧
      Host.Core.run Sys2Proof.core (1 + s.ipf) { s with pending := .frame :: rest } = .next { t with pending := .tick :: rest } ∧
      Host.Core.run Sys2Proof.core (1 + s.ipf + 1) { s with pending := .frame :: rest } = .next { tick t with pending := rest }

/-- From R267 (D34): sound_active is a function of ST, and the driver's buzzer call is buzzer_on exactly when it goes from 0 to 1 and buzzer_off
exactly when it goes from 1 to 0. -/
def Obligations.BuzzerFollowsSoundTimer : Prop :=
  ∀ s t : State, (s.soundActive = true ↔ s.st ≠ 0) ∧
    (buzzerCall s.soundActive t.soundActive = some .on ↔ s.st = 0 ∧ t.st ≠ 0) ∧
    (buzzerCall s.soundActive t.soundActive = some .off ↔ s.st ≠ 0 ∧ t.st = 0)

/-! ### Memory and the invariant -/

/-- From R60, R56, R51 (D8, D30): a byte read after a write of the same masked address is the byte written, and a write changes no other byte. -/
def Obligations.ReadAfterWrite : Prop :=
  ∀ (s : State) (a c : Nat) (b : Byte),
    memRead (memWrite s a b) c = (if c % 4096 = a % 4096 then b else memRead s c)

/-- Memories in canonical form that read the same at every address of the 12-bit space are the same data: the form is the model's own
(log 15). -/
def Obligations.EqualMemoriesAreEqualData : Prop :=
  ∀ m m' : Memory, Memory.wf m → Memory.wf m' → (∀ a < 4096, Memory.read m a = Memory.read m' a) → m = m'

/-- From R290: both ways into a defined state meet the invariant: the reset state, which is the state after a first LOAD (log 1), and the
state of construction for every parameter. The invariant's clause on diagnostics comes from R252 to R255; its clauses on the canonical
form of memory (log 15) and on draws counting the input queries in calls (log 6, log 7, log 10) are the model's own. -/
def Obligations.ResetMeetsTheInvariant : Prop := State.reset.Inv ∧ ∀ p : Params, (State.construct p).Inv

/-- Every operation, from every state that meets the invariant, keeps it. From R252 to R255: every diagnostic ever logged had its
condition. Of the model's own: memory stays in canonical form (log 15), and draws counts the input queries in calls (log 6, log 7,
log 10). -/
def Obligations.StepKeepsTheInvariant : Prop :=
  ∀ s t : State, s.Inv → step s = .next t → t.Inv
end

