-- ==== Sys2Proof/Laws/Memory.lean ====
section
/-! SUPPORT. The laws of memory: reading after writing, and the canonical form kept by every operation. -/

namespace Sys2Proof.Machine

theorem maskAddr_lt (a : Nat) : maskAddr a < 4096 := Nat.mod_lt _ (by decide)

/-- The mask is the low 12 bits, `addr & 0x0FFF` (spec/20_memory.md R51). -/
theorem maskAddr_eq_and (a : Nat) : maskAddr a = a &&& 0x0FFF := (Nat.and_two_pow_sub_one_eq_mod a 12).symm

theorem Memory.wf_nil : Memory.wf [] := by simp [Memory.wf]

theorem Memory.read_erase (m : Memory) (a c : Nat) :
    Memory.read (Memory.erase m a) c = if c = a then Memory.unlisted a else Memory.read m c := by
  induction m with
  | nil => simp only [Memory.erase, List.filter_nil, Memory.read]; split <;> simp_all
  | cons e m ih =>
    obtain ⟨k, x⟩ := e
    simp only [Memory.erase, List.filter_cons] at ih ⊢
    by_cases hk : k = a <;> by_cases hc : c = k <;> simp_all [Memory.read]

theorem Memory.read_insert {m : Memory} {a : Nat} (h : ∀ d ∈ m, d.1 ≠ a) (b : Byte) (c : Nat) :
    Memory.read (Memory.insert m a b) c = if c = a then b else Memory.read m c := by
  induction m with
  | nil => rfl
  | cons e m ih =>
    obtain ⟨k, x⟩ := e
    have hk : k ≠ a := h (k, x) (List.mem_cons_self ..)
    have := ih fun d hd => h d (List.mem_cons_of_mem _ hd)
    simp only [Memory.insert]
    split
    · rfl
    · by_cases hc : c = k <;> simp_all [Memory.read]

theorem Memory.mem_erase {m : Memory} {a : Nat} {d : Host.Cell} : d ∈ Memory.erase m a ↔ d ∈ m ∧ d.1 ≠ a := by
  simp [Memory.erase]

/-- A write changes the byte it names and no other (R56, R60), whatever form the memory has. -/
theorem Memory.read_write (m : Memory) (a : Nat) (b : Byte) (c : Nat) :
    Memory.read (Memory.write m a b) c = if c = a then b else Memory.read m c := by
  unfold Memory.write
  split
  · rw [Memory.read_erase]; simp_all
  · rw [Memory.read_insert fun d hd => (Memory.mem_erase.1 hd).2, Memory.read_erase]
    split <;> rfl

theorem Memory.mem_insert {m : Memory} {a : Nat} {b : Byte} {d : Host.Cell} :
    d ∈ Memory.insert m a b ↔ d = (a, b) ∨ d ∈ m := by
  induction m with
  | nil => simp [Memory.insert]
  | cons e m ih =>
    simp only [Memory.insert]
    split
    · simp
    · simp only [List.mem_cons, ih]; tauto

theorem Memory.rising_insert {m : Memory} {a : Nat} (hm : m.Pairwise fun c d => c.1 < d.1) (h : ∀ d ∈ m, d.1 ≠ a) (b : Byte) :
    (Memory.insert m a b).Pairwise fun c d => c.1 < d.1 := by
  induction m with
  | nil => simp [Memory.insert]
  | cons e m ih =>
    have he := (List.pairwise_cons.1 hm).1
    have hea := h e (List.mem_cons_self ..)
    simp only [Memory.insert]
    split
    · refine List.pairwise_cons.2 ⟨?_, hm⟩
      rintro d hd
      obtain rfl | hd := List.mem_cons.1 hd
      · assumption
      · exact Nat.lt_trans ‹_› (he d hd)
    · refine List.pairwise_cons.2 ⟨?_, ih hm.of_cons fun d hd => h d (List.mem_cons_of_mem _ hd)⟩
      rintro d hd
      obtain rfl | hd := Memory.mem_insert.1 hd
      · exact Nat.lt_of_le_of_ne (Nat.le_of_not_lt ‹_›) hea
      · exact he d hd

/-- A write keeps the canonical form. -/
theorem Memory.wf_write {m : Memory} (hm : Memory.wf m) {a : Nat} (ha : a < 4096) (b : Byte) : Memory.wf (Memory.write m a b) := by
  have he : Memory.wf (Memory.erase m a) := ⟨hm.1.filter _, fun c hc => hm.2 c (Memory.mem_erase.1 hc).1⟩
  unfold Memory.write
  split
  · exact he
  · refine ⟨Memory.rising_insert he.1 (fun d hd => (Memory.mem_erase.1 hd).2) b, fun c hc => ?_⟩
    obtain rfl | hc := Memory.mem_insert.1 hc
    · exact ⟨ha, ‹_›⟩
    · exact he.2 c hc

/-- A run of bytes written from an address on reads back, and no other byte changes. -/
theorem Memory.read_writeBytes (bs : List Byte) : ∀ (m : Memory) (a c : Nat), Memory.read (Memory.writeBytes m a bs) c =
    if h : a ≤ c ∧ c < a + bs.length then bs[c - a]'(by omega) else Memory.read m c := by
  induction bs with
  | nil => intro m a c; simp [Memory.writeBytes]
  | cons b bs ih =>
    intro m a c
    rw [Memory.writeBytes, ih, Memory.read_write]
    simp only [List.length_cons]
    split
    · obtain ⟨k, rfl⟩ : ∃ k, c = a + 1 + k := ⟨c - (a + 1), by omega⟩
      rw [dif_pos (by omega)]
      simp only [show a + 1 + k - (a + 1) = k by omega, show a + 1 + k - a = k + 1 by omega, List.getElem_cons_succ]
    · split
      · subst_vars; rw [dif_pos (by omega)]; simp
      · rw [dif_neg (by omega)]

/-- Writing bytes that fit below 4096 keeps the canonical form. -/
theorem Memory.wf_writeBytes (bs : List Byte) : ∀ {m : Memory} {a : Nat}, Memory.wf m → a + bs.length ≤ 4096 →
    Memory.wf (Memory.writeBytes m a bs) := by
  induction bs with
  | nil => exact fun hm _ => hm
  | cons b bs ih =>
    intro m a hm ha
    simp only [List.length_cons] at ha
    exact ih (Memory.wf_write hm (by omega) b) (by omega)

/-- `MemWrite` keeps the canonical form. -/
theorem memWrite_wf {s : State} (h : Memory.wf s.mem) (a : Nat) (b : Byte) : Memory.wf (memWrite s a b).mem :=
  Memory.wf_write h (maskAddr_lt a) b

/-- `MemRead` after `MemWrite` (R60). -/
theorem memRead_memWrite (s : State) (a c : Nat) (b : Byte) :
    memRead (memWrite s a b) c = if maskAddr c = maskAddr a then b else memRead s c :=
  Memory.read_write s.mem (maskAddr a) b (maskAddr c)

end Sys2Proof.Machine
end

