-- ==== Sys2Proof/Laws/State.lean ====
section
/-! SUPPORT. What each elementary update of the state does to each field, one lemma per field per update. -/

namespace Sys2Proof.Machine

@[simp] theorem setReg_v (s : State) (r : Reg) (b : Byte) : (s.setReg r b).v = s.v.set r b := rfl
@[simp] theorem setReg_i (s : State) (r : Reg) (b : Byte) : (s.setReg r b).i = s.i := rfl
@[simp] theorem setReg_pc (s : State) (r : Reg) (b : Byte) : (s.setReg r b).pc = s.pc := rfl
@[simp] theorem setReg_sp (s : State) (r : Reg) (b : Byte) : (s.setReg r b).sp = s.sp := rfl
@[simp] theorem setReg_stack (s : State) (r : Reg) (b : Byte) : (s.setReg r b).stack = s.stack := rfl
@[simp] theorem setReg_dt (s : State) (r : Reg) (b : Byte) : (s.setReg r b).dt = s.dt := rfl
@[simp] theorem setReg_st (s : State) (r : Reg) (b : Byte) : (s.setReg r b).st = s.st := rfl
@[simp] theorem setReg_mem (s : State) (r : Reg) (b : Byte) : (s.setReg r b).mem = s.mem := rfl
@[simp] theorem setReg_display (s : State) (r : Reg) (b : Byte) : (s.setReg r b).display = s.display := rfl
@[simp] theorem setReg_shiftQuirk (s : State) (r : Reg) (b : Byte) : (s.setReg r b).shiftQuirk = s.shiftQuirk := rfl
@[simp] theorem setReg_ipf (s : State) (r : Reg) (b : Byte) : (s.setReg r b).ipf = s.ipf := rfl
@[simp] theorem setReg_log (s : State) (r : Reg) (b : Byte) : (s.setReg r b).log = s.log := rfl
@[simp] theorem setReg_loaded (s : State) (r : Reg) (b : Byte) : (s.setReg r b).loaded = s.loaded := rfl
@[simp] theorem setReg_calls (s : State) (r : Reg) (b : Byte) : (s.setReg r b).calls = s.calls := rfl
@[simp] theorem setReg_keyIn (s : State) (r : Reg) (b : Byte) : (s.setReg r b).keyIn = s.keyIn := rfl
@[simp] theorem setReg_randIn (s : State) (r : Reg) (b : Byte) : (s.setReg r b).randIn = s.randIn := rfl
@[simp] theorem setReg_draws (s : State) (r : Reg) (b : Byte) : (s.setReg r b).draws = s.draws := rfl
@[simp] theorem setReg_pending (s : State) (r : Reg) (b : Byte) : (s.setReg r b).pending = s.pending := rfl
@[simp] theorem setReg_fetched (s : State) (r : Reg) (b : Byte) : (s.setReg r b).fetched = s.fetched := rfl

@[simp] theorem setPc_v (s : State) (a : Word) : (s.setPc a).v = s.v := rfl
@[simp] theorem setPc_i (s : State) (a : Word) : (s.setPc a).i = s.i := rfl
@[simp] theorem setPc_pc (s : State) (a : Word) : (s.setPc a).pc = a := rfl
@[simp] theorem setPc_sp (s : State) (a : Word) : (s.setPc a).sp = s.sp := rfl
@[simp] theorem setPc_stack (s : State) (a : Word) : (s.setPc a).stack = s.stack := rfl
@[simp] theorem setPc_dt (s : State) (a : Word) : (s.setPc a).dt = s.dt := rfl
@[simp] theorem setPc_st (s : State) (a : Word) : (s.setPc a).st = s.st := rfl
@[simp] theorem setPc_mem (s : State) (a : Word) : (s.setPc a).mem = s.mem := rfl
@[simp] theorem setPc_display (s : State) (a : Word) : (s.setPc a).display = s.display := rfl
@[simp] theorem setPc_shiftQuirk (s : State) (a : Word) : (s.setPc a).shiftQuirk = s.shiftQuirk := rfl
@[simp] theorem setPc_ipf (s : State) (a : Word) : (s.setPc a).ipf = s.ipf := rfl
@[simp] theorem setPc_log (s : State) (a : Word) : (s.setPc a).log = s.log := rfl
@[simp] theorem setPc_loaded (s : State) (a : Word) : (s.setPc a).loaded = s.loaded := rfl
@[simp] theorem setPc_calls (s : State) (a : Word) : (s.setPc a).calls = s.calls := rfl
@[simp] theorem setPc_keyIn (s : State) (a : Word) : (s.setPc a).keyIn = s.keyIn := rfl
@[simp] theorem setPc_randIn (s : State) (a : Word) : (s.setPc a).randIn = s.randIn := rfl
@[simp] theorem setPc_draws (s : State) (a : Word) : (s.setPc a).draws = s.draws := rfl
@[simp] theorem setPc_pending (s : State) (a : Word) : (s.setPc a).pending = s.pending := rfl
@[simp] theorem setPc_fetched (s : State) (a : Word) : (s.setPc a).fetched = s.fetched := rfl

@[simp] theorem setI_v (s : State) (a : Word) : (s.setI a).v = s.v := rfl
@[simp] theorem setI_i (s : State) (a : Word) : (s.setI a).i = a := rfl
@[simp] theorem setI_pc (s : State) (a : Word) : (s.setI a).pc = s.pc := rfl
@[simp] theorem setI_sp (s : State) (a : Word) : (s.setI a).sp = s.sp := rfl
@[simp] theorem setI_stack (s : State) (a : Word) : (s.setI a).stack = s.stack := rfl
@[simp] theorem setI_dt (s : State) (a : Word) : (s.setI a).dt = s.dt := rfl
@[simp] theorem setI_st (s : State) (a : Word) : (s.setI a).st = s.st := rfl
@[simp] theorem setI_mem (s : State) (a : Word) : (s.setI a).mem = s.mem := rfl
@[simp] theorem setI_display (s : State) (a : Word) : (s.setI a).display = s.display := rfl
@[simp] theorem setI_shiftQuirk (s : State) (a : Word) : (s.setI a).shiftQuirk = s.shiftQuirk := rfl
@[simp] theorem setI_ipf (s : State) (a : Word) : (s.setI a).ipf = s.ipf := rfl
@[simp] theorem setI_log (s : State) (a : Word) : (s.setI a).log = s.log := rfl
@[simp] theorem setI_loaded (s : State) (a : Word) : (s.setI a).loaded = s.loaded := rfl
@[simp] theorem setI_calls (s : State) (a : Word) : (s.setI a).calls = s.calls := rfl
@[simp] theorem setI_keyIn (s : State) (a : Word) : (s.setI a).keyIn = s.keyIn := rfl
@[simp] theorem setI_randIn (s : State) (a : Word) : (s.setI a).randIn = s.randIn := rfl
@[simp] theorem setI_draws (s : State) (a : Word) : (s.setI a).draws = s.draws := rfl
@[simp] theorem setI_pending (s : State) (a : Word) : (s.setI a).pending = s.pending := rfl
@[simp] theorem setI_fetched (s : State) (a : Word) : (s.setI a).fetched = s.fetched := rfl

@[simp] theorem setDt_v (s : State) (b : Byte) : (s.setDt b).v = s.v := rfl
@[simp] theorem setDt_i (s : State) (b : Byte) : (s.setDt b).i = s.i := rfl
@[simp] theorem setDt_pc (s : State) (b : Byte) : (s.setDt b).pc = s.pc := rfl
@[simp] theorem setDt_sp (s : State) (b : Byte) : (s.setDt b).sp = s.sp := rfl
@[simp] theorem setDt_stack (s : State) (b : Byte) : (s.setDt b).stack = s.stack := rfl
@[simp] theorem setDt_dt (s : State) (b : Byte) : (s.setDt b).dt = b := rfl
@[simp] theorem setDt_st (s : State) (b : Byte) : (s.setDt b).st = s.st := rfl
@[simp] theorem setDt_mem (s : State) (b : Byte) : (s.setDt b).mem = s.mem := rfl
@[simp] theorem setDt_display (s : State) (b : Byte) : (s.setDt b).display = s.display := rfl
@[simp] theorem setDt_shiftQuirk (s : State) (b : Byte) : (s.setDt b).shiftQuirk = s.shiftQuirk := rfl
@[simp] theorem setDt_ipf (s : State) (b : Byte) : (s.setDt b).ipf = s.ipf := rfl
@[simp] theorem setDt_log (s : State) (b : Byte) : (s.setDt b).log = s.log := rfl
@[simp] theorem setDt_loaded (s : State) (b : Byte) : (s.setDt b).loaded = s.loaded := rfl
@[simp] theorem setDt_calls (s : State) (b : Byte) : (s.setDt b).calls = s.calls := rfl
@[simp] theorem setDt_keyIn (s : State) (b : Byte) : (s.setDt b).keyIn = s.keyIn := rfl
@[simp] theorem setDt_randIn (s : State) (b : Byte) : (s.setDt b).randIn = s.randIn := rfl
@[simp] theorem setDt_draws (s : State) (b : Byte) : (s.setDt b).draws = s.draws := rfl
@[simp] theorem setDt_pending (s : State) (b : Byte) : (s.setDt b).pending = s.pending := rfl
@[simp] theorem setDt_fetched (s : State) (b : Byte) : (s.setDt b).fetched = s.fetched := rfl

@[simp] theorem setSt_v (s : State) (b : Byte) : (s.setSt b).v = s.v := rfl
@[simp] theorem setSt_i (s : State) (b : Byte) : (s.setSt b).i = s.i := rfl
@[simp] theorem setSt_pc (s : State) (b : Byte) : (s.setSt b).pc = s.pc := rfl
@[simp] theorem setSt_sp (s : State) (b : Byte) : (s.setSt b).sp = s.sp := rfl
@[simp] theorem setSt_stack (s : State) (b : Byte) : (s.setSt b).stack = s.stack := rfl
@[simp] theorem setSt_dt (s : State) (b : Byte) : (s.setSt b).dt = s.dt := rfl
@[simp] theorem setSt_st (s : State) (b : Byte) : (s.setSt b).st = b := rfl
@[simp] theorem setSt_mem (s : State) (b : Byte) : (s.setSt b).mem = s.mem := rfl
@[simp] theorem setSt_display (s : State) (b : Byte) : (s.setSt b).display = s.display := rfl
@[simp] theorem setSt_shiftQuirk (s : State) (b : Byte) : (s.setSt b).shiftQuirk = s.shiftQuirk := rfl
@[simp] theorem setSt_ipf (s : State) (b : Byte) : (s.setSt b).ipf = s.ipf := rfl
@[simp] theorem setSt_log (s : State) (b : Byte) : (s.setSt b).log = s.log := rfl
@[simp] theorem setSt_loaded (s : State) (b : Byte) : (s.setSt b).loaded = s.loaded := rfl
@[simp] theorem setSt_calls (s : State) (b : Byte) : (s.setSt b).calls = s.calls := rfl
@[simp] theorem setSt_keyIn (s : State) (b : Byte) : (s.setSt b).keyIn = s.keyIn := rfl
@[simp] theorem setSt_randIn (s : State) (b : Byte) : (s.setSt b).randIn = s.randIn := rfl
@[simp] theorem setSt_draws (s : State) (b : Byte) : (s.setSt b).draws = s.draws := rfl
@[simp] theorem setSt_pending (s : State) (b : Byte) : (s.setSt b).pending = s.pending := rfl
@[simp] theorem setSt_fetched (s : State) (b : Byte) : (s.setSt b).fetched = s.fetched := rfl

@[simp] theorem report_v (s : State) (d : Diagnostic) : (report d s).v = s.v := rfl
@[simp] theorem report_i (s : State) (d : Diagnostic) : (report d s).i = s.i := rfl
@[simp] theorem report_pc (s : State) (d : Diagnostic) : (report d s).pc = s.pc := rfl
@[simp] theorem report_sp (s : State) (d : Diagnostic) : (report d s).sp = s.sp := rfl
@[simp] theorem report_stack (s : State) (d : Diagnostic) : (report d s).stack = s.stack := rfl
@[simp] theorem report_dt (s : State) (d : Diagnostic) : (report d s).dt = s.dt := rfl
@[simp] theorem report_st (s : State) (d : Diagnostic) : (report d s).st = s.st := rfl
@[simp] theorem report_mem (s : State) (d : Diagnostic) : (report d s).mem = s.mem := rfl
@[simp] theorem report_display (s : State) (d : Diagnostic) : (report d s).display = s.display := rfl
@[simp] theorem report_shiftQuirk (s : State) (d : Diagnostic) : (report d s).shiftQuirk = s.shiftQuirk := rfl
@[simp] theorem report_ipf (s : State) (d : Diagnostic) : (report d s).ipf = s.ipf := rfl
@[simp] theorem report_log (s : State) (d : Diagnostic) : (report d s).log = s.log ++ [d] := rfl
@[simp] theorem report_loaded (s : State) (d : Diagnostic) : (report d s).loaded = s.loaded := rfl
@[simp] theorem report_calls (s : State) (d : Diagnostic) : (report d s).calls = s.calls := rfl
@[simp] theorem report_keyIn (s : State) (d : Diagnostic) : (report d s).keyIn = s.keyIn := rfl
@[simp] theorem report_randIn (s : State) (d : Diagnostic) : (report d s).randIn = s.randIn := rfl
@[simp] theorem report_draws (s : State) (d : Diagnostic) : (report d s).draws = s.draws := rfl
@[simp] theorem report_pending (s : State) (d : Diagnostic) : (report d s).pending = s.pending := rfl
@[simp] theorem report_fetched (s : State) (d : Diagnostic) : (report d s).fetched = s.fetched := rfl

@[simp] theorem memWrite_v (s : State) (a : Nat) (b : Byte) : (memWrite s a b).v = s.v := rfl
@[simp] theorem memWrite_i (s : State) (a : Nat) (b : Byte) : (memWrite s a b).i = s.i := rfl
@[simp] theorem memWrite_pc (s : State) (a : Nat) (b : Byte) : (memWrite s a b).pc = s.pc := rfl
@[simp] theorem memWrite_sp (s : State) (a : Nat) (b : Byte) : (memWrite s a b).sp = s.sp := rfl
@[simp] theorem memWrite_stack (s : State) (a : Nat) (b : Byte) : (memWrite s a b).stack = s.stack := rfl
@[simp] theorem memWrite_dt (s : State) (a : Nat) (b : Byte) : (memWrite s a b).dt = s.dt := rfl
@[simp] theorem memWrite_st (s : State) (a : Nat) (b : Byte) : (memWrite s a b).st = s.st := rfl
@[simp] theorem memWrite_mem (s : State) (a : Nat) (b : Byte) : (memWrite s a b).mem = Memory.write s.mem (maskAddr a) b := rfl
@[simp] theorem memWrite_display (s : State) (a : Nat) (b : Byte) : (memWrite s a b).display = s.display := rfl
@[simp] theorem memWrite_shiftQuirk (s : State) (a : Nat) (b : Byte) : (memWrite s a b).shiftQuirk = s.shiftQuirk := rfl
@[simp] theorem memWrite_ipf (s : State) (a : Nat) (b : Byte) : (memWrite s a b).ipf = s.ipf := rfl
@[simp] theorem memWrite_log (s : State) (a : Nat) (b : Byte) : (memWrite s a b).log = s.log := rfl
@[simp] theorem memWrite_loaded (s : State) (a : Nat) (b : Byte) : (memWrite s a b).loaded = s.loaded := rfl
@[simp] theorem memWrite_calls (s : State) (a : Nat) (b : Byte) : (memWrite s a b).calls = s.calls := rfl
@[simp] theorem memWrite_keyIn (s : State) (a : Nat) (b : Byte) : (memWrite s a b).keyIn = s.keyIn := rfl
@[simp] theorem memWrite_randIn (s : State) (a : Nat) (b : Byte) : (memWrite s a b).randIn = s.randIn := rfl
@[simp] theorem memWrite_draws (s : State) (a : Nat) (b : Byte) : (memWrite s a b).draws = s.draws := rfl
@[simp] theorem memWrite_pending (s : State) (a : Nat) (b : Byte) : (memWrite s a b).pending = s.pending := rfl
@[simp] theorem memWrite_fetched (s : State) (a : Nat) (b : Byte) : (memWrite s a b).fetched = s.fetched := rfl

@[simp] theorem called_v (s : State) (c : PortCall) : (called c s).v = s.v := rfl
@[simp] theorem called_i (s : State) (c : PortCall) : (called c s).i = s.i := rfl
@[simp] theorem called_pc (s : State) (c : PortCall) : (called c s).pc = s.pc := rfl
@[simp] theorem called_sp (s : State) (c : PortCall) : (called c s).sp = s.sp := rfl
@[simp] theorem called_stack (s : State) (c : PortCall) : (called c s).stack = s.stack := rfl
@[simp] theorem called_dt (s : State) (c : PortCall) : (called c s).dt = s.dt := rfl
@[simp] theorem called_st (s : State) (c : PortCall) : (called c s).st = s.st := rfl
@[simp] theorem called_mem (s : State) (c : PortCall) : (called c s).mem = s.mem := rfl
@[simp] theorem called_display (s : State) (c : PortCall) : (called c s).display = s.display := rfl
@[simp] theorem called_shiftQuirk (s : State) (c : PortCall) : (called c s).shiftQuirk = s.shiftQuirk := rfl
@[simp] theorem called_ipf (s : State) (c : PortCall) : (called c s).ipf = s.ipf := rfl
@[simp] theorem called_log (s : State) (c : PortCall) : (called c s).log = s.log := rfl
@[simp] theorem called_loaded (s : State) (c : PortCall) : (called c s).loaded = s.loaded := rfl
@[simp] theorem called_calls (s : State) (c : PortCall) : (called c s).calls = s.calls ++ [c] := rfl
@[simp] theorem called_keyIn (s : State) (c : PortCall) : (called c s).keyIn = s.keyIn := rfl
@[simp] theorem called_randIn (s : State) (c : PortCall) : (called c s).randIn = s.randIn := rfl
@[simp] theorem called_draws (s : State) (c : PortCall) : (called c s).draws = s.draws := rfl
@[simp] theorem called_pending (s : State) (c : PortCall) : (called c s).pending = s.pending := rfl
@[simp] theorem called_fetched (s : State) (c : PortCall) : (called c s).fetched = s.fetched := rfl

end Sys2Proof.Machine
end

