-- ==== Sys2Proof/Laws/Ops.lean ====
section
/-! SUPPORT. What each shared operation does, said once: provers cite these and leave the definitions folded. -/

namespace Sys2Proof.Machine

/-! ### Registers -/

@[simp] theorem reg_setReg (s : State) (r q : Reg) (b : Byte) : (s.setReg r b).reg q = if q = r then b else s.reg q := by
  simp only [State.reg, State.setReg, Fin.getElem_fin, Vector.getElem_set, Fin.val_inj, eq_comm (a := q)]

@[simp] theorem reg_setPc (s : State) (a : Word) (q : Reg) : (s.setPc a).reg q = s.reg q := rfl
@[simp] theorem reg_setI (s : State) (a : Word) (q : Reg) : (s.setI a).reg q = s.reg q := rfl
@[simp] theorem reg_setDt (s : State) (b : Byte) (q : Reg) : (s.setDt b).reg q = s.reg q := rfl
@[simp] theorem reg_setSt (s : State) (b : Byte) (q : Reg) : (s.setSt b).reg q = s.reg q := rfl
@[simp] theorem reg_report (s : State) (d : Diagnostic) (q : Reg) : (report d s).reg q = s.reg q := rfl
@[simp] theorem reg_memWrite (s : State) (a : Nat) (b : Byte) (q : Reg) : (memWrite s a b).reg q = s.reg q := rfl
@[simp] theorem reg_called (s : State) (c : PortCall) (q : Reg) : (called c s).reg q = s.reg q := rfl

/-- VF first, Vx second: the flag survives unless x is VF (R38); only V changes. -/
theorem writeFlagAndResult_eq (x : Reg) (flag : Bool) (b : Byte) (s : State) :
    writeFlagAndResult x flag b s = { s with v := (writeFlagAndResult x flag b s).v } := rfl

@[simp] theorem reg_writeFlagAndResult (x : Reg) (flag : Bool) (b : Byte) (s : State) (q : Reg) :
    (writeFlagAndResult x flag b s).reg q = if q = x then b else if q = vf then flagByte flag else s.reg q := by
  simp [writeFlagAndResult]

/-! ### PC, diagnostics and the fetch -/

/-- The advance of PC in one equation (R25). -/
theorem advancePc_eq (s : State) : advancePc s = { s with pc := s.pc + 2#16, log := s.log ++ skipReports s.pc } := by
  simp only [advancePc, skipReports]
  split <;> simp [report, State.setPc]

theorem skip_eq (s : State) : skip s = { s with pc := s.pc + 2#16, log := s.log ++ skipReports s.pc } := advancePc_eq s

/-- The state a fetch leaves in one equation (R82, R260). -/
theorem fetchState_eq (s : State) : fetchState s = { s with pc := s.pc + 2#16, log := s.log ++ fetchReports s.pc } := by
  simp only [fetchState, advancePc_eq, fetchReports, skipReports]
  split <;> simp [report, List.append_assoc]

/-- The 16-bit addition of 2 as a number (R25). -/
theorem pc_add_two_toNat (pc : Word) : (pc + 2#16).toNat = (pc.toNat + 2) % 65536 := by simp

/-! ### The call stack -/

theorem pushReturn_of_lt (nnn : Nnn) {s : State} (h : s.sp.val < 16) :
    pushReturn nnn s = { s with stack := s.stack.set s.sp.val s.pc, sp := ⟨s.sp.val + 1, by omega⟩ } := by
  simp [pushReturn, h]

theorem pushReturn_of_full (nnn : Nnn) {s : State} (h : ¬ s.sp.val < 16) :
    pushReturn nnn s = { s with log := s.log ++ [.stackOverflow s.pc nnn] } := by
  simp [pushReturn, h, report]

theorem popReturn_of_pos {s : State} (h : ¬ s.sp.val = 0) :
    popReturn s = { s with pc := s.stack[s.sp.val - 1]'(by omega), sp := ⟨s.sp.val - 1, by omega⟩ } := by
  simp [popReturn, h]

theorem popReturn_of_empty {s : State} (h : s.sp.val = 0) :
    popReturn s = { s with log := s.log ++ [.stackUnderflow s.pc] } := by
  simp [popReturn, h, report]

/-! ### The display -/

@[simp] theorem pixelLit_clearDisplay (p : Pixel) : pixelLit Config.clearDisplay p = false := by
  simp [pixelLit, Config.clearDisplay]

/-- Lighting a pixel lights it and no other. -/
@[simp] theorem pixelLit_lightPixel (d : Display) (p q : Pixel) :
    pixelLit (lightPixel d p) q = (decide (q = p) || pixelLit d q) := by
  obtain ⟨px, py⟩ := p
  obtain ⟨qx, qy⟩ := q
  simp only [pixelLit, lightPixel, Fin.getElem_fin, Vector.getElem_set, Prod.mk.injEq]
  by_cases hy : py.val = qy.val
  · obtain rfl := Fin.ext hy
    by_cases hx : qx = px
    · simp [hx]
    · simp [hx]; exact fun h => absurd (Fin.ext h) hx
  · simp [hy, show qy ≠ py from fun h => hy (by rw [h])]

/-- Darkening a pixel clears it and no other. -/
@[simp] theorem pixelLit_darkenPixel (d : Display) (p q : Pixel) :
    pixelLit (darkenPixel d p) q = (!decide (q = p) && pixelLit d q) := by
  obtain ⟨px, py⟩ := p
  obtain ⟨qx, qy⟩ := q
  simp only [pixelLit, darkenPixel, Fin.getElem_fin, Vector.getElem_set, Prod.mk.injEq]
  by_cases hy : py.val = qy.val
  · obtain rfl := Fin.ext hy
    by_cases hx : qx = px
    · simp [hx]
    · simp [hx]; exact fun _ h => absurd (Fin.ext h) hx
  · simp [hy, show qy ≠ py from fun h => hy (by rw [h])]

/-- A draw of one pixel touches the display and the calls only. -/
theorem touchPixel_snd (acc : Bool × State) (p : Pixel) :
    (touchPixel acc p).2 = { acc.2 with display := (touchPixel acc p).2.display, calls := (touchPixel acc p).2.calls } := by
  simp only [touchPixel]
  split <;> rfl

/-- The sprite loop touches the display and the calls only. -/
theorem foldl_touchPixel_snd (ps : List Pixel) : ∀ acc : Bool × State,
    (ps.foldl touchPixel acc).2 =
      { acc.2 with display := (ps.foldl touchPixel acc).2.display, calls := (ps.foldl touchPixel acc).2.calls } := by
  induction ps with
  | nil => exact fun _ => rfl
  | cons p ps ih =>
    intro acc
    rw [List.foldl_cons, ih (touchPixel acc p)]
    conv_lhs => rw [touchPixel_snd acc p]

theorem drawSprite_snd (x y : Reg) (n : Nat) (s : State) :
    (drawSprite x y n s).2 = { s with display := (drawSprite x y n s).2.display, calls := (drawSprite x y n s).2.calls } :=
  foldl_touchPixel_snd _ (false, s)

/-! ### Input -/

theorem keyPressed_snd (k : Key) (s : State) :
    (keyPressed k s).2 =
      { s with keyIn := s.keyIn.tail, draws := s.draws + 1, calls := s.calls ++ [.keyPressed k] } := rfl

theorem randByte_snd (s : State) :
    (randByte s).2 = { s with randIn := s.randIn.tail, draws := s.draws + 1, calls := s.calls ++ [.randByte] } := rfl

/-! ### Register transfers -/

@[simp] theorem mem_regsUpTo (x k : Reg) : k ∈ regsUpTo x ↔ k ≤ x := by
  have : k ∈ allRegs := by revert k; decide
  simp [regsUpTo, this]

theorem regsUpTo_nodup (x : Reg) : (regsUpTo x).Nodup := List.Nodup.filter _ (by decide)

/-- The loop of Fx55 touches memory only. -/
theorem foldl_storeReg_eq (ks : List Reg) : ∀ s : State, ks.foldl storeReg s = { s with mem := (ks.foldl storeReg s).mem } := by
  induction ks with
  | nil => exact fun _ => rfl
  | cons k ks ih => intro s; rw [List.foldl_cons, ih (storeReg s k)]; rfl

/-- The loop of Fx65 touches V only. -/
theorem foldl_loadReg_eq (ks : List Reg) : ∀ s : State, ks.foldl loadReg s = { s with v := (ks.foldl loadReg s).v } := by
  induction ks with
  | nil => exact fun _ => rfl
  | cons k ks ih => intro s; rw [List.foldl_cons, ih (loadReg s k)]; rfl

/-- The loop of Fx55 keeps the canonical form. -/
theorem foldl_storeReg_wf (ks : List Reg) : ∀ s : State, Memory.wf s.mem → Memory.wf (ks.foldl storeReg s).mem := by
  induction ks with
  | nil => exact fun _ h => h
  | cons k ks ih => exact fun s h => ih _ (memWrite_wf h _ _)

end Sys2Proof.Machine
end

