-- ==== Sys2Proof/Laws/Display.lean ====
section
/-! SUPPORT. The sprite's pixel set and the draw of one pixel (spec/43_display_input.md R202, R203). -/

namespace Sys2Proof.Machine

/-- What one draw of a lit pixel does. -/
theorem touchPixel_of_lit {acc : Bool × State} {p : Pixel} (h : pixelLit acc.2.display p = true) :
    touchPixel acc p = (true, dispClear p (called (.getPixel p) acc.2)) := if_pos h

/-- What one draw of a dark pixel does. -/
theorem touchPixel_of_dark {acc : Bool × State} {p : Pixel} (h : pixelLit acc.2.display p = false) :
    touchPixel acc p = (acc.1, dispSet p (called (.getPixel p) acc.2)) := if_neg (by simp [dispGet, h])

/-- One draw complements its pixel and no other. -/
theorem pixelLit_touchPixel (acc : Bool × State) (p q : Pixel) :
    pixelLit (touchPixel acc p).2.display q = (pixelLit acc.2.display q ^^ decide (q = p)) := by
  cases h : pixelLit acc.2.display p
  · rw [touchPixel_of_dark h]
    by_cases hq : q = p <;> simp_all [dispSet]
  · rw [touchPixel_of_lit h]
    by_cases hq : q = p <;> simp_all [dispClear]

/-- Displays with the same lit pixels are the same display. -/
theorem display_ext {d d' : Display} (h : ∀ p, pixelLit d p = pixelLit d' p) : d = d' :=
  Vector.ext fun y hy => BitVec.eq_of_getLsbD_eq fun x hx => h (⟨x, hx⟩, ⟨y, hy⟩)

/-- A pixel is named by a column and a row exactly when they are its own. -/
theorem onScreen_eq_some {px py : Nat} {p : Pixel} : onScreen px py = some p ↔ p.1.val = px ∧ p.2.val = py := by
  obtain ⟨⟨x, hx⟩, ⟨y, hy⟩⟩ := p
  simp only [onScreen]
  split
  · simp [eq_comm]
  · simp only [reduceCtorEq, false_iff]; omega

theorem mem_spriteRowPixels {s : State} {x0 y0 r : Nat} {p : Pixel} : p ∈ spriteRowPixels s x0 y0 r ↔
    ∃ c < 8, spriteBit s r c = true ∧ p.1.val = x0 + c ∧ p.2.val = y0 + r := by
  simp only [spriteRowPixels, List.mem_filterMap, List.mem_range]
  refine exists_congr fun c => and_congr_right fun _ => ?_
  by_cases hb : spriteBit s r c = true <;> simp [hb, onScreen_eq_some]

/-- The pixels of a sprite: the on-screen places of its 1-bits (R203's S). -/
theorem mem_spritePixels {s : State} {x0 y0 n : Nat} {p : Pixel} : p ∈ spritePixels s x0 y0 n ↔
    ∃ r < n, ∃ c < 8, spriteBit s r c = true ∧ p.1.val = x0 + c ∧ p.2.val = y0 + r := by
  simp only [spritePixels, List.mem_flatMap, List.mem_range, mem_spriteRowPixels]

/-- What is collected along a sprite row, column by column: each on-screen 1-bit gives its share, in ascending column. -/
theorem flatMap_spriteRowPixels {α : Type} (s : State) (x0 y0 r : Nat) (f : Pixel → List α) :
    (spriteRowPixels s x0 y0 r).flatMap f = (List.range 8).flatMap fun c =>
      if h : x0 + c < 64 ∧ y0 + r < 32 then if spriteBit s r c then f (⟨_, h.1⟩, ⟨_, h.2⟩) else [] else [] := by
  rw [spriteRowPixels]
  generalize List.range 8 = cs
  induction cs with
  | nil => rfl
  | cons c cs ih =>
    simp only [List.flatMap_cons, ← ih, List.filterMap_cons]
    by_cases hb : spriteBit s r c = true <;> by_cases h : x0 + c < 64 ∧ y0 + r < 32 <;> simp [hb, onScreen, h]

theorem spriteRowPixels_nodup (s : State) (x0 y0 r : Nat) : (spriteRowPixels s x0 y0 r).Nodup := by
  refine List.Nodup.filterMap ?_ List.nodup_range
  intro a b p ha hb
  by_cases h : spriteBit s r a = true <;> by_cases h' : spriteBit s r b = true <;> simp [h, h', onScreen_eq_some] at ha hb
  omega

/-- One draw names each pixel at most once. -/
theorem spritePixels_nodup (s : State) (x0 y0 n : Nat) : (spritePixels s x0 y0 n).Nodup := by
  refine List.nodup_flatMap.2 ⟨fun r _ => spriteRowPixels_nodup s x0 y0 r, List.nodup_range.imp fun {a b} hab p hp hp' => hab ?_⟩
  obtain ⟨_, _, _, _, h⟩ := mem_spriteRowPixels.1 hp
  obtain ⟨_, _, _, _, h'⟩ := mem_spriteRowPixels.1 hp'
  omega

end Sys2Proof.Machine
end

