-- ==== Sys2Proof/Laws/Encoding.lean ====
section
/-! SUPPORT. The fields of a word as numbers (spec/30_encoding.md R72), the fields of each format (R71), and the bytes of a word
(spec/20_memory.md R54). -/

namespace Sys2Proof

theorem fieldOp_toNat (w : Word) : (fieldOp w).toNat = w.toNat / 4096 := by
  simp [fieldOp, Nat.shiftRight_eq_div_pow]; omega

theorem fieldX_val (w : Word) : (fieldX w).val = w.toNat / 256 % 16 := by
  simp [fieldX, Nat.shiftRight_eq_div_pow]

theorem fieldY_val (w : Word) : (fieldY w).val = w.toNat / 16 % 16 := by
  simp [fieldY, Nat.shiftRight_eq_div_pow]

theorem fieldN_toNat (w : Word) : (fieldN w).toNat = w.toNat % 16 := by
  simp [fieldN]

theorem fieldKk_toNat (w : Word) : (fieldKk w).toNat = w.toNat % 256 := by
  simp [fieldKk]

theorem fieldNnn_toNat (w : Word) : (fieldNnn w).toNat = w.toNat % 4096 := by
  simp [fieldNnn]

/-! ### The fields of each format -/

theorem formatA_toNat {op : Nat} (h : op < 16) (nnn : Nnn) : (formatA op nnn).toNat = op * 4096 + nnn.toNat := by
  simp [formatA]; omega

theorem formatXK_toNat {op : Nat} (h : op < 16) (x : Reg) (kk : Byte) :
    (formatXK op x kk).toNat = op * 4096 + x.val * 256 + kk.toNat := by
  have := x.isLt
  simp [formatXK]; omega

theorem formatXY_toNat {op n : Nat} (h : op < 16) (hn : n < 16) (x y : Reg) :
    (formatXY op x y n).toNat = op * 4096 + x.val * 256 + y.val * 16 + n := by
  have := x.isLt; have := y.isLt
  simp [formatXY]; omega

/-! ### The two bytes of a word -/

theorem wordOfBytes_toNat (hi lo : Byte) : (wordOfBytes hi lo).toNat = hi.toNat * 256 + lo.toNat := by
  simp [wordOfBytes]; omega

@[simp] theorem highByte_wordOfBytes (hi lo : Byte) : highByte (wordOfBytes hi lo) = hi := by
  apply BitVec.eq_of_toNat_eq
  simp [highByte, wordOfBytes_toNat, Nat.shiftRight_eq_div_pow]; omega

@[simp] theorem lowByte_wordOfBytes (hi lo : Byte) : lowByte (wordOfBytes hi lo) = lo := by
  apply BitVec.eq_of_toNat_eq
  simp [lowByte, wordOfBytes_toNat]
  exact lo.isLt

/-- The two bytes of a word in memory order make the word again. -/
@[simp] theorem wordOfBytes_bytes (w : Word) : wordOfBytes (highByte w) (lowByte w) = w := by
  apply BitVec.eq_of_toNat_eq
  rw [wordOfBytes_toNat]
  simp [highByte, lowByte, Nat.shiftRight_eq_div_pow]; omega

/-- Two bytes decode to what their word decodes to, with nothing left over. -/
theorem decode_pair (hi lo : Byte) (i : Instr) : decode [hi, lo] = .ok (i, []) ↔ decodeWord (wordOfBytes hi lo) = .ok i := by
  simp only [decode]
  cases decodeWord (wordOfBytes hi lo) <;> simp [Except.map]

end Sys2Proof
end

