-- ==== Sys2Proof/Laws/Exec.lean ====
section
/-! SUPPORT. What executing each instruction can change, said once for all of `exec`. -/

namespace Sys2Proof.Machine

/-- The fields each instruction may change; every other field is as before. -/
def ExecFrame (i : Instr) (s t : State) : Prop :=
  match i with
  | .cls => t = { s with display := t.display, calls := t.calls }
  | .ret => t = { s with pc := t.pc, sp := t.sp, log := t.log }
  | .jp _ | .jpV0 _ => t = { s with pc := t.pc }
  | .call _ => t = { s with pc := t.pc, sp := t.sp, stack := t.stack, log := t.log }
  | .seImm _ _ | .sneImm _ _ | .seReg _ _ | .sneReg _ _ => t = { s with pc := t.pc, log := t.log }
  | .ldImm _ _ | .addImm _ _ | .ldReg _ _ | .orReg _ _ | .andReg _ _ | .xorReg _ _ | .addReg _ _ | .sub _ _ | .shr _ _
  | .subn _ _ | .shl _ _ | .ldVxDt _ | .loadRegs _ => t = { s with v := t.v }
  | .ldI _ | .addI _ | .ldF _ => t = { s with i := t.i }
  | .rnd _ _ => t = { s with v := t.v, randIn := t.randIn, draws := t.draws, calls := t.calls }
  | .drw _ _ _ => t = { s with v := t.v, display := t.display, calls := t.calls }
  | .skp _ | .sknp _ => t = { s with pc := t.pc, log := t.log, keyIn := t.keyIn, draws := t.draws, calls := t.calls }
  | .ldDtVx _ => t = { s with dt := t.dt }
  | .ldStVx _ => t = { s with st := t.st }
  | .ldB _ | .storeRegs _ => t = { s with mem := t.mem }

theorem skip_frame (s : State) : skip s = { s with pc := (skip s).pc, log := (skip s).log } := by
  rw [skip_eq]

theorem popReturn_frame (s : State) :
    popReturn s = { s with pc := (popReturn s).pc, sp := (popReturn s).sp, log := (popReturn s).log } := by
  by_cases h : s.sp.val = 0
  · rw [popReturn_of_empty h]
  · rw [popReturn_of_pos h]

theorem pushReturn_frame (nnn : Nnn) (s : State) :
    pushReturn nnn s =
      { s with sp := (pushReturn nnn s).sp, stack := (pushReturn nnn s).stack, log := (pushReturn nnn s).log } := by
  by_cases h : s.sp.val < 16
  · rw [pushReturn_of_lt nnn h]
  · rw [pushReturn_of_full nnn h]

/-- A skip taken or not changes PC and the log only. -/
theorem ite_skip_frame (p : Prop) [Decidable p] (s : State) :
    (if p then skip s else s) = { s with pc := (if p then skip s else s).pc, log := (if p then skip s else s).log } := by
  split
  · exact skip_frame s
  · rfl

theorem exec_frame {i : Instr} {s t : State} (h : exec i s = .next t) : ExecFrame i s t := by
  cases i <;> (injection h with h; subst h; simp only [ExecFrame])
  case ret => exact popReturn_frame s
  case call nnn => exact congrArg (State.setPc · (zextNnn nnn)) (pushReturn_frame nnn s)
  case seImm | sneImm | seReg | sneReg => exact ite_skip_frame _ s
  case drw x y n =>
    have h := drawSprite_snd x y n s
    generalize (drawSprite x y n s).2 = u at h ⊢
    cases u
    simp only [State.mk.injEq] at h
    simp [State.setReg, h]
  case skp x => split <;> simp [skip_eq, keyPressed_snd]
  case sknp x => split <;> simp [skip_eq, keyPressed_snd]
  case storeRegs x => exact foldl_storeReg_eq _ s
  case loadRegs x => exact foldl_loadReg_eq _ s
  all_goals rfl

end Sys2Proof.Machine
end

