-- ==== Sys2Proof/Laws/PerInstr.lean ====
section
/-! SUPPORT. The per-instruction family `TableRow`: a well-formed instruction's word lies in the group of its own row of the table of
spec/30_encoding.md R78, one lemma per instruction. -/

namespace Sys2Proof.Laws.TableRow

open Sys2Proof

/-- The word of a well-formed instruction has the major opcode of the row of R78 that carries the instruction's number. -/
def Statement (i : Instr) : Prop :=
  i.wellFormed = true → ∃ r ∈ opcodeTable, r.num = i.row ∧ fieldOp (encode i) = fieldOp r.value

/-- A word lies in the group its major opcode names. -/
theorem fieldOp_eq {w : Word} {op rest : Nat} (value : Word) (hw : w.toNat = op * 4096 + rest) (hr : rest < 4096)
    (hv : value.toNat / 4096 = op) : fieldOp w = fieldOp value := by
  apply BitVec.eq_of_toNat_eq
  rw [fieldOp_toNat, fieldOp_toNat]
  omega

theorem fieldOp_formatA {op : Nat} (h : op < 16) (nnn : Nnn) (value : Word) (hv : value.toNat / 4096 = op) :
    fieldOp (formatA op nnn) = fieldOp value :=
  fieldOp_eq value (formatA_toNat h nnn) (by omega) hv

theorem fieldOp_formatXK {op : Nat} (h : op < 16) (x : Reg) (kk : Byte) (value : Word) (hv : value.toNat / 4096 = op) :
    fieldOp (formatXK op x kk) = fieldOp value :=
  fieldOp_eq (rest := x.val * 256 + kk.toNat) value (by rw [formatXK_toNat h]; omega) (by omega) hv

theorem fieldOp_formatXY {op n : Nat} (h : op < 16) (hn : n < 16) (x y : Reg) (value : Word) (hv : value.toNat / 4096 = op) :
    fieldOp (formatXY op x y n) = fieldOp value :=
  fieldOp_eq (rest := x.val * 256 + y.val * 16 + n) value (by rw [formatXY_toNat h hn]; omega) (by omega) hv

theorem cls : Statement .cls := fun _ =>
  ⟨⟨1, 0x00E0, 0xFFFF⟩, by decide, rfl, rfl⟩

theorem ret : Statement .ret := fun _ =>
  ⟨⟨2, 0x00EE, 0xFFFF⟩, by decide, rfl, rfl⟩

theorem jp (nnn : Nnn) : Statement (.jp nnn) := fun _ =>
  ⟨⟨3, 0x1000, 0xF000⟩, by decide, rfl, fieldOp_formatA (by decide) nnn _ rfl⟩

theorem call (nnn : Nnn) : Statement (.call nnn) := fun _ =>
  ⟨⟨4, 0x2000, 0xF000⟩, by decide, rfl, fieldOp_formatA (by decide) nnn _ rfl⟩

theorem seImm (x : Reg) (kk : Byte) : Statement (.seImm x kk) := fun _ =>
  ⟨⟨5, 0x3000, 0xF000⟩, by decide, rfl, fieldOp_formatXK (by decide) x kk _ rfl⟩

theorem sneImm (x : Reg) (kk : Byte) : Statement (.sneImm x kk) := fun _ =>
  ⟨⟨6, 0x4000, 0xF000⟩, by decide, rfl, fieldOp_formatXK (by decide) x kk _ rfl⟩

theorem seReg (x y : Reg) : Statement (.seReg x y) := fun _ =>
  ⟨⟨7, 0x5000, 0xF00F⟩, by decide, rfl, fieldOp_formatXY (by decide) (by decide) x y _ rfl⟩

theorem ldImm (x : Reg) (kk : Byte) : Statement (.ldImm x kk) := fun _ =>
  ⟨⟨8, 0x6000, 0xF000⟩, by decide, rfl, fieldOp_formatXK (by decide) x kk _ rfl⟩

theorem addImm (x : Reg) (kk : Byte) : Statement (.addImm x kk) := fun _ =>
  ⟨⟨9, 0x7000, 0xF000⟩, by decide, rfl, fieldOp_formatXK (by decide) x kk _ rfl⟩

theorem ldReg (x y : Reg) : Statement (.ldReg x y) := fun _ =>
  ⟨⟨10, 0x8000, 0xF00F⟩, by decide, rfl, fieldOp_formatXY (by decide) (by decide) x y _ rfl⟩

theorem orReg (x y : Reg) : Statement (.orReg x y) := fun _ =>
  ⟨⟨11, 0x8001, 0xF00F⟩, by decide, rfl, fieldOp_formatXY (by decide) (by decide) x y _ rfl⟩

theorem andReg (x y : Reg) : Statement (.andReg x y) := fun _ =>
  ⟨⟨12, 0x8002, 0xF00F⟩, by decide, rfl, fieldOp_formatXY (by decide) (by decide) x y _ rfl⟩

theorem xorReg (x y : Reg) : Statement (.xorReg x y) := fun _ =>
  ⟨⟨13, 0x8003, 0xF00F⟩, by decide, rfl, fieldOp_formatXY (by decide) (by decide) x y _ rfl⟩

theorem addReg (x y : Reg) : Statement (.addReg x y) := fun _ =>
  ⟨⟨14, 0x8004, 0xF00F⟩, by decide, rfl, fieldOp_formatXY (by decide) (by decide) x y _ rfl⟩

theorem sub (x y : Reg) : Statement (.sub x y) := fun _ =>
  ⟨⟨15, 0x8005, 0xF00F⟩, by decide, rfl, fieldOp_formatXY (by decide) (by decide) x y _ rfl⟩

theorem shr (x y : Reg) : Statement (.shr x y) := fun _ =>
  ⟨⟨16, 0x8006, 0xF00F⟩, by decide, rfl, fieldOp_formatXY (by decide) (by decide) x y _ rfl⟩

theorem subn (x y : Reg) : Statement (.subn x y) := fun _ =>
  ⟨⟨17, 0x8007, 0xF00F⟩, by decide, rfl, fieldOp_formatXY (by decide) (by decide) x y _ rfl⟩

theorem shl (x y : Reg) : Statement (.shl x y) := fun _ =>
  ⟨⟨18, 0x800E, 0xF00F⟩, by decide, rfl, fieldOp_formatXY (by decide) (by decide) x y _ rfl⟩

theorem sneReg (x y : Reg) : Statement (.sneReg x y) := fun _ =>
  ⟨⟨19, 0x9000, 0xF00F⟩, by decide, rfl, fieldOp_formatXY (by decide) (by decide) x y _ rfl⟩

theorem ldI (nnn : Nnn) : Statement (.ldI nnn) := fun _ =>
  ⟨⟨20, 0xA000, 0xF000⟩, by decide, rfl, fieldOp_formatA (by decide) nnn _ rfl⟩

theorem jpV0 (nnn : Nnn) : Statement (.jpV0 nnn) := fun _ =>
  ⟨⟨21, 0xB000, 0xF000⟩, by decide, rfl, fieldOp_formatA (by decide) nnn _ rfl⟩

theorem rnd (x : Reg) (kk : Byte) : Statement (.rnd x kk) := fun _ =>
  ⟨⟨22, 0xC000, 0xF000⟩, by decide, rfl, fieldOp_formatXK (by decide) x kk _ rfl⟩

theorem drw (x y : Reg) (n : Nat) : Statement (.drw x y n) := fun h =>
  ⟨⟨23, 0xD000, 0xF000⟩, by decide, rfl, fieldOp_formatXY (by decide) (by simp [Instr.wellFormed] at h; omega) x y _ rfl⟩

theorem skp (x : Reg) : Statement (.skp x) := fun _ =>
  ⟨⟨24, 0xE09E, 0xF0FF⟩, by decide, rfl, fieldOp_formatXK (by decide) x _ _ rfl⟩

theorem sknp (x : Reg) : Statement (.sknp x) := fun _ =>
  ⟨⟨25, 0xE0A1, 0xF0FF⟩, by decide, rfl, fieldOp_formatXK (by decide) x _ _ rfl⟩

theorem ldVxDt (x : Reg) : Statement (.ldVxDt x) := fun _ =>
  ⟨⟨26, 0xF007, 0xF0FF⟩, by decide, rfl, fieldOp_formatXK (by decide) x _ _ rfl⟩

theorem ldDtVx (x : Reg) : Statement (.ldDtVx x) := fun _ =>
  ⟨⟨27, 0xF015, 0xF0FF⟩, by decide, rfl, fieldOp_formatXK (by decide) x _ _ rfl⟩

theorem ldStVx (x : Reg) : Statement (.ldStVx x) := fun _ =>
  ⟨⟨28, 0xF018, 0xF0FF⟩, by decide, rfl, fieldOp_formatXK (by decide) x _ _ rfl⟩

theorem addI (x : Reg) : Statement (.addI x) := fun _ =>
  ⟨⟨29, 0xF01E, 0xF0FF⟩, by decide, rfl, fieldOp_formatXK (by decide) x _ _ rfl⟩

theorem ldF (x : Reg) : Statement (.ldF x) := fun _ =>
  ⟨⟨30, 0xF029, 0xF0FF⟩, by decide, rfl, fieldOp_formatXK (by decide) x _ _ rfl⟩

theorem ldB (x : Reg) : Statement (.ldB x) := fun _ =>
  ⟨⟨31, 0xF033, 0xF0FF⟩, by decide, rfl, fieldOp_formatXK (by decide) x _ _ rfl⟩

theorem storeRegs (x : Reg) : Statement (.storeRegs x) := fun _ =>
  ⟨⟨32, 0xF055, 0xF0FF⟩, by decide, rfl, fieldOp_formatXK (by decide) x _ _ rfl⟩

theorem loadRegs (x : Reg) : Statement (.loadRegs x) := fun _ =>
  ⟨⟨33, 0xF065, 0xF0FF⟩, by decide, rfl, fieldOp_formatXK (by decide) x _ _ rfl⟩

end Sys2Proof.Laws.TableRow
end

