-- ==== Sys2Proof/Laws/Step.lean ====
section
/-! SUPPORT. What a step is, said once: STEP when nothing is pending, otherwise the host's next operation. -/

namespace Sys2Proof.Machine

/-- A STEP once a program is loaded: the fetched word executed from the state the fetch leaves (R84). -/
theorem stepOp_eq {s : State} (h : s.loaded = true) : stepOp s = executeWord (fetchWord s) (fetchState s) := by
  simp [stepOp, afterLoad, h]

theorem step_running {s : State} (h : s.Running) : step s = executeWord (fetchWord s) (fetchState s) := by
  simp [step, nextOp, h.2, stepOp_eq h.1]

theorem step_pending {s : State} {op : HostOp} {rest : List HostOp} (h : s.pending = op :: rest) :
    step s = hostOp op { s with pending := rest } := by
  simp [step, nextOp, h]

theorem executeWord_ok {w : Word} {i : Instr} (h : decodeWord w = .ok i) (s : State) : executeWord w s = exec i s := by
  simp [executeWord, h]

theorem executeWord_error {w : Word} {e : Reject} (h : decodeWord w = .error e) (s : State) :
    executeWord w s = .next { s with log := s.log ++ [.unrecognizedOpcode w] } := by
  simp [executeWord, h, unrecognized, report]

/-- EXECUTE once a program is loaded: the word, with PC as it is (R85). -/
theorem executeOp_eq {s : State} (h : s.loaded = true) (w : Word) : executeOp w s = executeWord w s := by
  simp [executeOp, afterLoad, h]

/-- FETCH once a program is loaded (R82). -/
theorem fetchOp_eq {s : State} (h : s.loaded = true) : fetchOp s = .next { fetchState s with fetched := some (fetchWord s) } := by
  simp [fetchOp, afterLoad, h]

/-- Executing a word either runs the instruction it decodes to or reports it. -/
theorem executeWord_cases (w : Word) (s : State) :
    (∃ i, decodeWord w = .ok i ∧ executeWord w s = exec i s) ∨
    (∃ e, decodeWord w = .error e ∧ executeWord w s = .next { s with log := s.log ++ [.unrecognizedOpcode w] }) := by
  cases h : decodeWord w with
  | ok i => exact .inl ⟨i, rfl, executeWord_ok h s⟩
  | error e => exact .inr ⟨e, rfl, executeWord_error h s⟩

/-- The only answers of an operation that needs a program. -/
theorem afterLoad_next {s t : State} {out : Host.Outcome State Fault Refusal} (h : afterLoad s out = .next t) :
    s.loaded = true ∧ out = .next t := by
  unfold afterLoad at h
  split at h
  · exact ⟨‹_›, h⟩
  · cases h

end Sys2Proof.Machine
end

