-- ==== Sys2Proof/Tests/Slice0.lean ====
section
/-! SUPPORT. The model's own tests: the well-formedness check, a word of every instruction, the vectors of spec/95_test_vectors.md (their
ids stand in the comments; no expected value is the model's own answer), and a witness for the hypotheses of each obligation that has
any. -/

namespace Sys2Proof.Tests

open Sys2Proof Sys2Proof.Machine

/-- The start state of the vectors: just after LOAD of an empty image, PC as if a word had been fetched from 0x0200. -/
def start : State := { State.reset with pc := 0x0202 }

/-- A state with some registers given. -/
def withRegs (rs : List (Reg × Byte)) (s : State) : State := rs.foldl (fun s r => s.setReg r.1 r.2) s

/-- A state with bytes stored from an address on. -/
def withBytes (a : Nat) (bs : List Byte) (s : State) : State := { s with mem := Memory.writeBytes s.mem a bs }

/-- What a function reads from a next state. -/
def after {α : Type} (o : Host.Outcome State Fault Refusal) (f : State → α) : Option α :=
  match o with
  | .next t => some (f t)
  | .fault _ => none
  | .refused _ => none

/-- The refusal an operation ends in. -/
def refusal (o : Host.Outcome State Fault Refusal) : Option Refusal :=
  match o with
  | .next _ => none
  | .fault _ => none
  | .refused r => some r

/-- The first operation of the host from a state. -/
def op (o : HostOp) (s : State) : Host.Outcome State Fault Refusal := step { s with pending := [o] }

/-! ### Well-formedness -/

/-- R73: n is a count 0..15; a height of 16 has no encoding. -/
theorem test_wellFormed_refuses_height_16 : (Instr.drw 0 0 16).wellFormed = false := by decide

theorem test_wellFormed_admits_height_15 : (Instr.drw 15 15 15).wellFormed = true := by decide

/-! ### Decoding: words written out from the formats of R71 and the values of R78 -/

/-- Control transfer. -/
theorem test_decode_control :
    ∀ wi ∈ [(0b0000_0000_1110_1110, Instr.ret),
        (0b0001_1010_1011_1100, Instr.jp 0xABC),
        (0b0010_0011_0000_0001, Instr.call 0x301),
        (0b0011_0010_00101010, Instr.seImm 2 0x2A),
        (0b0100_1111_10000001, Instr.sneImm 15 0x81),
        (0b0101_0011_1100_0000, Instr.seReg 3 12),
        (0b1001_0011_1100_0000, Instr.sneReg 3 12),
        (0b1011_0101_1111_0001, Instr.jpV0 0x5F1)],
      decodeTableWord 16 wi.1 = some wi.2 := by decide

/-- Register loads and ALU. -/
theorem test_decode_alu :
    ∀ wi ∈ [(0b0110_1010_00101111, Instr.ldImm 10 0x2F),
        (0b0111_0011_10000101, Instr.addImm 3 0x85),
        (0b1000_0001_1110_0000, Instr.ldReg 1 14),
        (0b1000_0001_1110_0001, Instr.orReg 1 14),
        (0b1000_0001_1110_0010, Instr.andReg 1 14),
        (0b1000_0001_1110_0011, Instr.xorReg 1 14)],
      decodeTableWord 16 wi.1 = some wi.2 := by decide

/-- Flag-writing ALU and the random byte. -/
theorem test_decode_flags :
    ∀ wi ∈ [(0b1000_0001_1110_0100, Instr.addReg 1 14),
        (0b1000_0001_1110_0101, Instr.sub 1 14),
        (0b1000_0001_1110_0110, Instr.shr 1 14),
        (0b1000_0001_1110_0111, Instr.subn 1 14),
        (0b1000_0001_1110_1110, Instr.shl 1 14),
        (0b1100_0011_00001111, Instr.rnd 3 0x0F)],
      decodeTableWord 16 wi.1 = some wi.2 := by decide

/-- Index and memory. -/
theorem test_decode_index :
    ∀ wi ∈ [(0b1010_0001_0010_0011, Instr.ldI 0x123),
        (0b1111_0010_00011110, Instr.addI 2),
        (0b1111_0100_00101001, Instr.ldF 4),
        (0b1111_1000_00110011, Instr.ldB 8),
        (0b1111_0010_01010101, Instr.storeRegs 2),
        (0b1111_1111_01100101, Instr.loadRegs 15)],
      decodeTableWord 16 wi.1 = some wi.2 := by decide

/-- Display, input and timers. -/
theorem test_decode_display :
    ∀ wi ∈ [(0b0000_0000_1110_0000, Instr.cls),
        (0b1101_0001_0010_0101, Instr.drw 1 2 5),
        (0b1110_0101_10011110, Instr.skp 5),
        (0b1110_0101_10100001, Instr.sknp 5),
        (0b1111_0011_00000111, Instr.ldVxDt 3),
        (0b1111_0011_00010101, Instr.ldDtVx 3),
        (0b1111_0001_00011000, Instr.ldStVx 1)],
      decodeTableWord 16 wi.1 = some wi.2 := by decide

/-- V-U-1 to V-U-12: words that are no instruction. -/
theorem test_decode_rejects :
    ∀ w ∈ [0x0000, 0x0123, 0x00E1, 0x00FF, 0x5011, 0x8008, 0x800F, 0x9011, 0xE000, 0xE09F, 0xF00A, 0xFFFF],
      decodeTableWord 16 w = none := by decide

/-- The words of an instruction lie in memory high byte first (R54). -/
theorem test_bytes_big_endian : encodeBytes (.jp 0xABC) = [0x1A, 0xBC] := by decide

/-- One byte is no instruction (R70). -/
theorem test_decode_truncated : decode [0x00] = .error .truncated := by rfl

/-! ### Fetch, step and the other operations -/

/-- V-F-3. -/
theorem test_fetch_at_0FFE :
    after (op .fetch (withBytes 0xFFE [0x12, 0x34] { start with pc := 0x0FFE })) (fun t => (t.fetched, t.pc, t.log)) =
      some (some 0x1234, 0x1000, []) := by decide

/-- V-F-4. -/
theorem test_fetch_at_0FFF :
    after (op .fetch (withBytes 0xFFF [0x12] { start with pc := 0x0FFF })) (fun t => (t.fetched, t.pc, t.log)) =
      some (some 0x12F0, 0x1001, [.fetchRange 0x0FFF]) := by decide

/-- V-F-6. -/
theorem test_fetch_at_FFFE :
    after (op .fetch (withBytes 0xFFE [0x12, 0x34] { start with pc := 0xFFFE })) (fun t => (t.fetched, t.pc, t.log)) =
      some (some 0x1234, 0x0000, [.fetchRange 0xFFFE, .pcRollover 0xFFFE]) := by decide

/-- V-F-7. -/
theorem test_fetch_at_FFFF :
    after (op .fetch (withBytes 0xFFF [0x12] { start with pc := 0xFFFF })) (fun t => (t.fetched, t.pc, t.log)) =
      some (some 0x12F0, 0x0001, [.fetchRange 0xFFFF, .pcRollover 0xFFFF]) := by decide

/-- V-U-13. -/
theorem test_step_unrecognized :
    after (step (State.reset.withFetchWord 16 0x5011)) (fun t => (t.pc, t.log)) = some (0x0202, [.unrecognizedOpcode 0x5011]) := by decide

/-- V-X-1. -/
theorem test_step_reports_in_order :
    after (step (withBytes 0xFFE [0x00, 0xEE] { State.reset with pc := 0xFFFE })) (fun t => (t.pc, t.sp, t.log)) =
      some (0x0000, 0, [.fetchRange 0xFFFE, .pcRollover 0xFFFE, .stackUnderflow 0x0000]) := by decide

/-- S3 as the first step after reset. -/
theorem test_step_runs_fetched_word :
    after (step (withRegs [(0, 0xFF), (1, 0x03)] (State.reset.withFetchWord 16 0x8014))) (fun t => (t.reg 0, t.reg vf, t.pc)) =
      some (0x02, 0x01, 0x0202) := by decide

/-- V-CF-6 as the operation EXECUTE (R85): the pushed PC is the one held. -/
theorem test_execute_takes_pc_as_it_is :
    after (op (.execute 0x2300) start) (fun t => (t.pc, t.sp, t.stack[0], t.log)) = some (0x0300, 1, 0x0202, []) := by decide

/-- V-T-5. -/
theorem test_tick_stops_at_zero :
    after (op .tick { start with dt := 0x02, st := 0x00 }) (fun t => (t.dt, t.st)) = some (0x01, 0x00) := by decide

/-- V-T-6. -/
theorem test_tick_sound :
    after (op .tick { start with dt := 0x00, st := 0x01 }) (fun t => (t.dt, t.st, t.soundActive)) = some (0x00, 0x00, false) := by decide

/-- V-R-1. -/
theorem test_construction_refuses_step :
    refusal (step (State.construct Params.default)) = some .notLoaded ∧ (State.construct Params.default).pc = 0x0000 := by decide

/-- V-R-2. -/
theorem test_load_after_construction :
    after (op (.load [0x12, 0x01]) (State.construct Params.default))
      (fun t => (Memory.read t.mem 0x200, Memory.read t.mem 0x201, t.pc, t.loaded)) = some (0x12, 0x01, 0x0200, true) := by decide +kernel

/-- Log 1: the reset state is construction and then LOAD of an empty image. -/
theorem test_load_empty_image_is_reset :
    after (op (.load []) (State.construct Params.default)) id = some State.reset := by decide +kernel

/-- V-R-3. -/
theorem test_load_keeps_memory_outside_the_image :
    after (op (.load [0x60, 0x01]) (withRegs [(3, 0x44)] (withBytes 0x300 [0x99] (withBytes 0x010 [0x00]
        { start with i := 0x0321, dt := 5, sp := 2 }))))
      (fun t => (t.reg 3, t.i, t.dt, t.sp, Memory.read t.mem 0x300, Memory.read t.mem 0x010)) = some (0, 0, 0, 0, 0x99, 0x00) := by decide

/-- V-R-5, V-R-4: one byte more than fits is refused. -/
theorem test_load_refuses_3585_bytes :
    ∀ rom : List Byte, rom.length = 3585 → op (.load rom) (State.construct Params.default) = .refused .imageTooLong := by
  intro rom h
  simp [op, step, nextOp, hostOp, loadOp, maxImage, h]

/-- R278, R312. -/
theorem test_quirk_and_rate :
    after (op (.setQuirk true) start) (fun t => t.shiftQuirk) = some true ∧ after (op (.setIpf 4) start) (fun t => t.ipf) = some 4 := by decide

/-! ### Control transfer -/

/-- V-CF-1. -/
theorem test_ret :
    after (executeWord 0x00EE { start with pc := 0x0302, sp := 1, stack := start.stack.set 0 0x0204 }) (fun t => (t.pc, t.sp, t.stack[0])) =
      some (0x0204, 0, 0x0204) := by decide

/-- V-CF-3. -/
theorem test_ret_from_16 :
    after (executeWord 0x00EE { start with pc := 0x0302, sp := 16, stack := start.stack.set 15 0x0ABC }) (fun t => (t.pc, t.sp)) =
      some (0x0ABC, 15) := by decide

/-- V-CF-4. -/
theorem test_jp :
    after (executeWord 0x1ABC start) (fun t => (t.pc, t.log)) =
      some (0x0ABC, []) := by decide

/-- V-CF-7. -/
theorem test_call :
    after (executeWord 0x2ABC { start with pc := 0x0402, sp := 15 }) (fun t => (t.pc, t.sp, t.stack[15])) =
      some (0x0ABC, 16, 0x0402) := by decide

/-- V-CF-8. -/
theorem test_call_full_stack :
    after (executeWord 0x2600 { start with pc := 0x0402, sp := 16 }) (fun t => (t.pc, t.sp, t.stack[15], t.log)) =
      some (0x0600, 16, 0x0000, [.stackOverflow 0x0402 0x600]) := by decide

/-- V-CF-9. -/
theorem test_seImm :
    after (executeWord 0x322A (withRegs [(2, 0x2A)] start)) (fun t => (t.pc, t.log)) =
      some (0x0204, []) := by decide

/-- V-CF-13. -/
theorem test_seImm_rollover :
    after (executeWord 0x3000 { start with pc := 0xFFFF }) (fun t => (t.pc, t.log)) =
      some (0x0001, [.pcRollover 0xFFFF]) := by decide

/-- V-CF-14. -/
theorem test_sneImm_equal :
    after (executeWord 0x422A (withRegs [(2, 0x2A)] start)) (fun t => t.pc) =
      some 0x0202 := by decide

/-- V-CF-15. -/
theorem test_sneImm_other :
    after (executeWord 0x422B (withRegs [(2, 0x2A)] start)) (fun t => t.pc) =
      some 0x0204 := by decide

/-- V-CF-16. -/
theorem test_seReg :
    after (executeWord 0x5010 (withRegs [(0, 0x07), (1, 0x07)] start)) (fun t => t.pc) =
      some 0x0204 := by decide

/-- V-CF-18. -/
theorem test_seReg_other :
    after (executeWord 0x5010 (withRegs [(0, 0x07), (1, 0x08)] start)) (fun t => t.pc) =
      some 0x0202 := by decide

/-- V-CF-19. -/
theorem test_sneReg :
    after (executeWord 0x9010 (withRegs [(0, 0x07), (1, 0x08)] start)) (fun t => t.pc) =
      some 0x0204 := by decide

/-- V-CF-20. -/
theorem test_sneReg_same :
    after (executeWord 0x9330 (withRegs [(3, 0x09)] start)) (fun t => t.pc) =
      some 0x0202 := by decide

/-- V-CF-22. -/
theorem test_jpV0_unmasked :
    after (executeWord 0xBFFF (withRegs [(0, 0xFF)] start)) (fun t => t.pc) =
      some 0x10FE := by decide

/-- V-CF-23. -/
theorem test_jpV0_uses_V0 :
    after (executeWord 0xB5F0 (withRegs [(0, 0x10), (5, 0x99)] start)) (fun t => t.pc) =
      some 0x0600 := by decide

/-! ### Register loads and ALU -/

/-- V-A-1. -/
theorem test_ldImm :
    after (executeWord 0x6A2F start) (fun t => t.reg 10) =
      some 0x2F := by decide

/-- V-A-3. -/
theorem test_addImm :
    after (executeWord 0x7305 (withRegs [(3, 0xFE), (vf, 0x55)] start)) (fun t => (t.reg 3, t.reg vf)) =
      some (0x03, 0x55) := by decide

/-- V-A-4. -/
theorem test_addImm_vf :
    after (executeWord 0x7F01 (withRegs [(vf, 0xFF)] start)) (fun t => t.reg vf) =
      some 0x00 := by decide

/-- V-A-5. -/
theorem test_ldReg :
    after (executeWord 0x8010 (withRegs [(1, 0x42)] start)) (fun t => (t.reg 0, t.reg 1)) =
      some (0x42, 0x42) := by decide

/-- V-A-6. -/
theorem test_orReg :
    after (executeWord 0x8011 (withRegs [(0, 0x0F), (1, 0xF0), (vf, 0x55)] start)) (fun t => (t.reg 0, t.reg vf)) =
      some (0xFF, 0x55) := by decide

/-- V-A-7. -/
theorem test_andReg :
    after (executeWord 0x8012 (withRegs [(0, 0x3C), (1, 0x0F), (vf, 0x55)] start)) (fun t => (t.reg 0, t.reg vf)) =
      some (0x0C, 0x55) := by decide

/-- V-A-8. -/
theorem test_xorReg :
    after (executeWord 0x8013 (withRegs [(0, 0x3C), (1, 0x0F), (vf, 0x55)] start)) (fun t => (t.reg 0, t.reg vf)) =
      some (0x33, 0x55) := by decide

/-- V-A-11. -/
theorem test_addReg_255 :
    after (executeWord 0x8014 (withRegs [(0, 0x80), (1, 0x7F), (vf, 0x01)] start)) (fun t => (t.reg 0, t.reg vf)) =
      some (0xFF, 0x00) := by decide

/-- V-A-15. -/
theorem test_addReg_into_vf :
    after (executeWord 0x8F14 (withRegs [(1, 0x03), (vf, 0xFF)] start)) (fun t => t.reg vf) =
      some 0x02 := by decide

/-- V-A-17. -/
theorem test_sub_borrow :
    after (executeWord 0x8015 (withRegs [(0, 0x03), (1, 0x05)] start)) (fun t => (t.reg 0, t.reg vf)) =
      some (0xFE, 0x00) := by decide

/-- V-A-21. -/
theorem test_sub_old_vf :
    after (executeWord 0x80F5 (withRegs [(0, 0x05), (vf, 0x01)] start)) (fun t => (t.reg 0, t.reg vf)) =
      some (0x04, 0x01) := by decide

/-- V-A-25. -/
theorem test_shr_ignores_Vy :
    after (executeWord 0x8016 (withRegs [(0, 0x04), (1, 0xFF)] start)) (fun t => (t.reg 0, t.reg vf)) =
      some (0x02, 0x00) := by decide

/-- V-A-27. -/
theorem test_shr_quirk_old_vf :
    after (executeWord 0x80F6 (withRegs [(0, 0x77), (vf, 0x81)] { start with shiftQuirk := true })) (fun t => (t.reg 0, t.reg vf)) =
      some (0x40, 0x01) := by decide

/-- V-A-28. -/
theorem test_subn :
    after (executeWord 0x8017 (withRegs [(0, 0x03), (1, 0x05)] start)) (fun t => (t.reg 0, t.reg vf)) =
      some (0x02, 0x01) := by decide

/-- V-A-30. -/
theorem test_subn_equal :
    after (executeWord 0x8017 (withRegs [(0, 0x09), (1, 0x09), (vf, 0x01)] start)) (fun t => (t.reg 0, t.reg vf)) =
      some (0x00, 0x00) := by decide

/-- V-A-33. -/
theorem test_shl_quirk :
    after (executeWord 0x801E (withRegs [(0, 0x81), (1, 0x40)] { start with shiftQuirk := true })) (fun t => (t.reg 0, t.reg vf)) =
      some (0x80, 0x00) := by decide

/-- V-A-36. -/
theorem test_shl_into_vf :
    after (executeWord 0x8F0E (withRegs [(vf, 0xC0)] start)) (fun t => t.reg vf) =
      some 0x80 := by decide

/-- V-A-37. -/
theorem test_rnd :
    after (executeWord 0xC30F { start with randIn := [0xA7] }) (fun t => (t.reg 3, t.randIn)) =
      some (0x07, []) := by decide

/-! ### Index register and memory transfers -/

/-- V-M-1. -/
theorem test_ldI :
    after (executeWord 0xA120 start) (fun t => t.i) =
      some 0x0120 := by decide

/-- V-M-4. -/
theorem test_addI_silent :
    after (executeWord 0xF01E (withRegs [(0, 0x01), (vf, 0x55)] { start with i := 0x0FFF })) (fun t => (t.i, t.reg vf)) =
      some (0x1000, 0x55) := by decide

/-- V-M-5. -/
theorem test_addI_wraps :
    after (executeWord 0xF01E (withRegs [(0, 0x02)] { start with i := 0xFFFF })) (fun t => (t.i, t.log)) =
      some (0x0001, []) := by decide

/-- V-M-6. -/
theorem test_ldF :
    after (executeWord 0xF429 (withRegs [(4, 0x0A)] start)) (fun t => t.i) =
      some 0x0032 := by decide

/-- V-M-9. -/
theorem test_ldF_whole_byte :
    after (executeWord 0xF429 (withRegs [(4, 0xFF)] start)) (fun t => t.i) =
      some 0x04FB := by decide

/-- V-M-10. -/
theorem test_ldB :
    after (executeWord 0xF033 (withRegs [(0, 0xFE)] { start with i := 0x0300 })) (fun t => (memRead t 0x300, memRead t 0x301, memRead t 0x302)) =
      some (0x02, 0x05, 0x04) := by decide

/-- V-M-15. -/
theorem test_ldB_wraps :
    after (executeWord 0xF033 (withRegs [(0, 0x7B)] { start with i := 0x0FFF })) (fun t => (memRead t 0xFFF, memRead t 0x000, memRead t 0x001)) =
      some (0x01, 0x02, 0x03) := by decide

/-- V-M-18. -/
theorem test_storeRegs :
    after (executeWord 0xF255 (withRegs [(0, 0x11), (1, 0x22), (2, 0x33)] { start with i := 0x0FFE })) (fun t => (memRead t 0xFFE, memRead t 0xFFF, memRead t 0x000, t.i)) =
      some (0x11, 0x22, 0x33, 0x0FFE) := by decide

/-- V-M-17. -/
theorem test_storeRegs_only_V0 :
    after (executeWord 0xF055 (withRegs [(0, 0x11), (1, 0x22)] { start with i := 0x0400 })) (fun t => t.mem) =
      some [(0x400, 0x11)] := by decide

/-- V-M-21. -/
theorem test_loadRegs :
    after (executeWord 0xF165 (withBytes 0x400 [0x11, 0x22, 0x33] { start with i := 0x1400 })) (fun t => (t.reg 0, t.reg 1, t.reg 2, t.i)) =
      some (0x11, 0x22, 0x00, 0x1400) := by decide

/-- V-M-20. -/
theorem test_loadRegs_all :
    after (executeWord 0xFF65 (withBytes 0x40F [0xAB] { start with i := 0x0400 })) (fun t => (t.reg vf, t.reg 14)) =
      some (0xAB, 0x00) := by decide

/-! ### Display, input and timers -/

/-- V-D-1. -/
theorem test_cls :
    after (executeWord 0x00E0 { start with display := lightPixel (lightPixel start.display (1, 1)) (5, 5) }) (fun t => (t.display, t.calls)) =
      some (Config.clearDisplay, [.clearAll]) := by decide

/-- V-D-5 at its boundary with V-D-8: column 60, a lit pixel in column 0. -/
theorem test_drw_clips_and_wraps_start :
    after (executeWord 0xD011 (withRegs [(0, 60)] (withBytes 0x300 [0xFF] { start with i := 0x0300, display := lightPixel start.display (0, 0) }))) (fun t => (t.display[0], t.reg vf)) =
      some (0xF000000000000001#64, 0x00) := by decide

/-- V-D-7. -/
theorem test_drw_collision :
    after (executeWord 0xD011 (withBytes 0x300 [0xF0] { start with i := 0x0300, display := lightPixel start.display (3, 0) })) (fun t => (t.display[0], t.reg vf, t.calls)) =
      some (0x7#64, 0x01, [.getPixel (0, 0), .setPixel (0, 0), .getPixel (1, 0), .setPixel (1, 0),
        .getPixel (2, 0), .setPixel (2, 0), .getPixel (3, 0), .clearPixel (3, 0)]) := by decide

/-- V-D-17. -/
theorem test_skp_low_nibble :
    after (executeWord 0xE59E (withRegs [(5, 0x1A)] { start with keyIn := [0x0400] })) (fun t => (t.pc, t.calls)) =
      some (0x0204, [.keyPressed 10]) := by decide

/-- V-D-14. -/
theorem test_skp_not_pressed :
    after (executeWord 0xE59E (withRegs [(5, 0x04)] { start with keyIn := [0x0000] })) (fun t => t.pc) =
      some 0x0202 := by decide

/-- V-D-15. -/
theorem test_sknp_not_pressed :
    after (executeWord 0xE5A1 (withRegs [(5, 0x04)] { start with keyIn := [0x0000] })) (fun t => t.pc) =
      some 0x0204 := by decide

/-- V-D-16. -/
theorem test_sknp_pressed :
    after (executeWord 0xE5A1 (withRegs [(5, 0x04)] { start with keyIn := [0x0010] })) (fun t => t.pc) =
      some 0x0202 := by decide

/-- V-T-1. -/
theorem test_ldVxDt :
    after (executeWord 0xF307 { start with dt := 0x3C }) (fun t => t.reg 3) =
      some 0x3C := by decide

/-- V-T-2. -/
theorem test_ldDtVx :
    after (executeWord 0xF315 (withRegs [(3, 0x3C)] start)) (fun t => (t.dt, t.st)) =
      some (0x3C, 0x00) := by decide

/-- V-T-3. -/
theorem test_ldStVx :
    after (executeWord 0xF118 (withRegs [(1, 0x05)] start)) (fun t => (t.st, t.dt, t.soundActive)) =
      some (0x05, 0x00, true) := by decide

/-! ### Witnesses: states and operands that meet the hypotheses of the obligations -/

/-- A state with a word where the next STEP fetches it. -/
def atWord (w : Nat) (s : State) : State := s.withFetchWord 16 w

/-- A state with one operation of the host next. -/
def asking (o : HostOp) (s : State) : State := { s with pending := [o] }

/-- For StepRunsTheDecodedInstruction. -/
theorem witness_step_decodes :
    (atWord 0x8014 start).Running ∧
      decode [memRead (atWord 0x8014 start) (atWord 0x8014 start).pc.toNat,
        memRead (atWord 0x8014 start) ((atWord 0x8014 start).pc.toNat + 1)] = .ok (.addReg 0 1, []) :=
  ⟨⟨rfl, rfl⟩, by decide +kernel⟩

/-- For ExecuteRunsTheDecodedInstruction. -/
theorem witness_execute :
    (asking (.execute 0x8014) start).loaded = true ∧ (asking (.execute 0x8014) start).pending = .execute 0x8014 :: [] ∧
      decodeWord 0x8014 = .ok (.addReg 0 1) := ⟨rfl, rfl, by rfl⟩

/-- For FetchReturnsTheWordAtPc: any PC, so the boundaries 0x0FFF and 0xFFFE of its clauses among them. -/
theorem witness_fetch (p : Word) :
    (asking .fetch { start with pc := p }).loaded = true ∧ (asking .fetch { start with pc := p }).pending = .fetch :: [] ∧
      (asking .fetch { start with pc := p }).pc = p := ⟨rfl, rfl, rfl⟩

/-- For the two clauses of UnrecognizedWordOnlyReports: the word of V-U-13, asked for and fetched. -/
theorem witness_unrecognized :
    (∀ r ∈ opcodeTable, 0x5011 &&& r.mask ≠ r.value) ∧
      ((asking (.execute 0x5011) start).loaded = true ∧ (asking (.execute 0x5011) start).pending = .execute 0x5011 :: []) ∧
      ((atWord 0x5011 start).loaded = true ∧ (atWord 0x5011 start).pending = [] ∧ fetchWord (atWord 0x5011 start) = 0x5011) :=
  ⟨by decide, ⟨rfl, rfl⟩, rfl, rfl, by rfl⟩

/-- For AtMostOneRowMatches. -/
theorem witness_row_matches :
    (⟨18, 0x800E, 0xF00F⟩ : OpcodeRow) ∈ opcodeTable ∧ (0x81EE#16 &&& 0xF00F#16) = 0x800E#16 := by decide

/-- For DecodeOfEncode. -/
theorem witness_well_formed : (Instr.drw 15 0 15).wellFormed = true ∧ (Instr.loadRegs 15).wellFormed = true := by decide

/-- For EncodeOfDecode. -/
theorem witness_decodes : decodeWord 0xDF0F = .ok (.drw 15 0 15) := by rfl

/-- For the clauses of CallPushesReturnAddress, at the ends of their ranges of SP. -/
theorem witness_call_sp :
    start.sp.val < 16 ∧ ({ start with sp := 15 } : State).sp.val < 16 ∧ ({ start with sp := 16 } : State).sp.val = 16 := by decide

/-- For the clauses of RetPopsReturnAddress, at the ends of their ranges of SP. -/
theorem witness_ret_sp :
    0 < ({ start with sp := 1 } : State).sp.val ∧ 0 < ({ start with sp := 16 } : State).sp.val ∧ start.sp.val = 0 := by decide

/-- The start of V-CF-24: CALL 0x400 at 0x300 and RET at 0x400. -/
def callRet : State := withBytes 0x300 [0x24, 0x00] (withBytes 0x400 [0x00, 0xEE] { start with pc := 0x0300 })

/-- For CallThenRetReturns. -/
theorem witness_call_ret :
    callRet.Running ∧ callRet.sp.val < 16 ∧ decodeWord (fetchWord callRet) = .ok (.call 0x400) ∧
      decodeWord (fetchWord { callRet with pc := (0x400#12).setWidth 16 }) = .ok .ret :=
  ⟨⟨rfl, rfl⟩, by decide, by rfl, by rfl⟩

/-- For SelfJumpIsAFixedPoint: a self-jump at 0x200 and one at its last address, 0xFFF. -/
theorem witness_self_jump :
    ((atWord 0x1200 State.reset).Running ∧ (atWord 0x1200 State.reset).AtSelfJump) ∧
      ((atWord 0x1FFF { start with pc := 0x0FFF }).Running ∧ (atWord 0x1FFF { start with pc := 0x0FFF }).AtSelfJump) :=
  ⟨⟨⟨rfl, rfl⟩, by rfl, by decide⟩, ⟨⟨rfl, rfl⟩, by rfl, by decide⟩⟩

/-- For LoadsAndLogicWriteVxOnly: each listed pair, with V0 = 0x3C and V1 = 0x0F. -/
theorem witness_loads_and_logic :
    ∀ iv ∈ [(Instr.ldImm 0 0x2F, 0x2F#8), (.ldReg 0 1, 0x0F), (.orReg 0 1, 0x3F), (.andReg 0 1, 0x0C), (.xorReg 0 1, 0x33)],
      iv ∈ [(Instr.ldImm 0 0x2F, 0x2F#8), (.ldReg 0 1, (withRegs [(0, 0x3C), (1, 0x0F)] start).reg 1),
        (.orReg 0 1, (withRegs [(0, 0x3C), (1, 0x0F)] start).reg 0 ||| (withRegs [(0, 0x3C), (1, 0x0F)] start).reg 1),
        (.andReg 0 1, (withRegs [(0, 0x3C), (1, 0x0F)] start).reg 0 &&& (withRegs [(0, 0x3C), (1, 0x0F)] start).reg 1),
        (.xorReg 0 1, (withRegs [(0, 0x3C), (1, 0x0F)] start).reg 0 ^^^ (withRegs [(0, 0x3C), (1, 0x0F)] start).reg 1)] := by decide

/-- For AddSetsCarry: a sum of 255, which does not carry, and one of 256, which does. -/
theorem witness_carry :
    (0 : Reg) ≠ vf ∧ ((withRegs [(0, 0x80), (1, 0x7F)] start).reg 0).toNat + ((withRegs [(0, 0x80), (1, 0x7F)] start).reg 1).toNat = 255 ∧
      ((withRegs [(0, 0x80), (1, 0x80)] start).reg 0).toNat + ((withRegs [(0, 0x80), (1, 0x80)] start).reg 1).toNat = 256 := by decide

/-- For SubtractSetsNoBorrow: operands in each order, and equal. -/
theorem witness_borrow :
    (0 : Reg) ≠ vf ∧ (withRegs [(0, 5), (1, 4)] start).reg 0 > (withRegs [(0, 5), (1, 4)] start).reg 1 ∧
      (withRegs [(0, 5), (1, 5)] start).reg 0 = (withRegs [(0, 5), (1, 5)] start).reg 1 := by decide

/-- For ShiftsMoveOneBitIntoVf: the source, for x = 0, with the quirk clear and set, at both ends of a byte. -/
theorem witness_shift :
    (0 : Reg) ≠ vf ∧
    0x80 = (if (withRegs [(0, 0x80), (1, 0x01)] start).shiftQuirk then (withRegs [(0, 0x80), (1, 0x01)] start).reg 1
      else (withRegs [(0, 0x80), (1, 0x01)] start).reg 0).toNat ∧
    0x01 = (if (withRegs [(0, 0x80), (1, 0x01)] { start with shiftQuirk := true }).shiftQuirk
      then (withRegs [(0, 0x80), (1, 0x01)] { start with shiftQuirk := true }).reg 1
      else (withRegs [(0, 0x80), (1, 0x01)] { start with shiftQuirk := true }).reg 0).toNat := by decide

/-- For VfDestinationKeepsTheResult: the operands, and each listed pair. -/
theorem witness_vf_destination :
    0xC0 = ((withRegs [(vf, 0xC0), (1, 0x41)] start).reg vf).toNat ∧ 0x41 = ((withRegs [(vf, 0xC0), (1, 0x41)] start).reg 1).toNat ∧
    0xC0 = (if (withRegs [(vf, 0xC0), (1, 0x41)] start).shiftQuirk then 0x41 else 0xC0) ∧
    ∀ iv ∈ [(Instr.addReg vf 1, 0x01), (.sub vf 1, 0x7F), (.shr vf 1, 0x60), (.subn vf 1, 0x81), (.shl vf 1, 0x80)],
      iv ∈ [(Instr.addReg vf 1, (0xC0 + 0x41) % 256), (.sub vf 1, (0xC0 + 256 - 0x41) % 256), (.shr vf 1, 0xC0 / 2),
        (.subn vf 1, (0x41 + 256 - 0xC0) % 256), (.shl vf 1, 0xC0 * 2 % 256)] := by decide

/-- For the clauses of RndMasksOneFreeByte and KeySkipsFollowTheKey: an answer given, and none. -/
theorem witness_inputs :
    ({ start with randIn := [0xA7] } : State).randIn = 0xA7 :: [] ∧ start.randIn = [] ∧
      ({ start with keyIn := [0x0400] } : State).keyIn = 0x0400 :: [] ∧ start.keyIn = [] := by decide

/-- For IndexInstructionsWriteIOnly: each listed pair, with I = 0xFFFF and V2 = 0xFF. -/
theorem witness_index :
    ∀ iv ∈ [(Instr.ldI 0xFFF, 0xFFF), (.addI 2, 0x00FE), (.ldF 2, 0x04FB)],
      iv ∈ [(Instr.ldI 0xFFF, (0xFFF#12).toNat),
        (.addI 2, ((withRegs [(2, 0xFF)] { start with i := 0xFFFF }).i.toNat
          + ((withRegs [(2, 0xFF)] { start with i := 0xFFFF }).reg 2).toNat) % 65536),
        (.ldF 2, ((withRegs [(2, 0xFF)] { start with i := 0xFFFF }).reg 2).toNat * 5)] := by decide

/-- For the clauses of BcdStoresThreeDigits, StoreRegistersWritesV0ToVx and LoadRegistersReadsV0ToVx: addresses that wrap, an address
outside the stored bytes, registers at both ends of 0..x, and one above. -/
theorem witness_transfer :
    (∀ k < 3, maskAddr 0x002 ≠ maskAddr (indexAddr { start with i := 0x0FFF } k)) ∧
      (∀ k : Reg, k ≤ 2 → maskAddr 0x001 ≠ maskAddr (indexAddr { start with i := 0x0FFE } k)) ∧
      maskAddr 0x000 = maskAddr (indexAddr { start with i := 0x0FFE } 2) ∧ (0 : Reg) ≤ 2 ∧ (2 : Reg) ≤ 2 ∧ (2 : Reg) < 3 := by decide

/-- For StoreThenLoadRestoresRegisters. -/
theorem witness_store : ∃ t, exec (.storeRegs 15) start = .next t ∧ (15 : Reg) ≤ 15 := ⟨_, rfl, by decide⟩

/-- The state in which LD [I],V1 stores over the two bytes of the next instruction. -/
def selfStore : State := { start with i := 0x0202 }

/-- For the Fx55 clauses of NextFetchSeesTheStore: V0 lands on the first byte and V1 on the second. -/
theorem witness_store_over_next :
    (∃ t, exec (.storeRegs 1) selfStore = .next t) ∧ (0 : Reg) ≤ 1 ∧ (1 : Reg) ≤ 1 ∧
      maskAddr (indexAddr selfStore (0 : Reg)) = maskAddr selfStore.pc.toNat ∧
      maskAddr (indexAddr selfStore (1 : Reg)) = maskAddr (selfStore.pc.toNat + 1) :=
  ⟨⟨_, rfl⟩, by decide⟩

/-- For the Fx33 clauses of NextFetchSeesTheStore: the first digit lands on the first byte, the second on the second, and from one
address lower the last two digits do. -/
theorem witness_digits_over_next :
    (∃ t, exec (.ldB 0) selfStore = .next t) ∧ maskAddr (indexAddr selfStore 0) = maskAddr selfStore.pc.toNat ∧
      maskAddr (indexAddr selfStore 1) = maskAddr (selfStore.pc.toNat + 1) ∧
      maskAddr (indexAddr { selfStore with i := 0x0201 } 1) = maskAddr selfStore.pc.toNat ∧
      maskAddr (indexAddr { selfStore with i := 0x0201 } 2) = maskAddr (selfStore.pc.toNat + 1) :=
  ⟨⟨_, rfl⟩, by decide⟩

/-- For the LOAD clauses of NextFetchSeesTheStore: images of one byte and of two. -/
theorem witness_load_over_next :
    ∀ rom ∈ [[0x12#8], [0x12, 0x34]], (asking (.load rom) start).pending = .load rom :: [] ∧ 0 < rom.length ∧
      ∃ t, step (asking (.load rom) start) = .next t := by
  intro rom h
  obtain rfl | rfl : rom = [0x12#8] ∨ rom = [0x12, 0x34] := by simpa using h
  all_goals exact ⟨rfl, by decide, _, rfl⟩

/-- The start of V-D-7, and of V-D-4 at row 0: a row of four 1-bits at (0, 0), with pixel (3, 0) lit or not. -/
def drawStart (lit : Bool) : State :=
  withBytes 0x300 [0xF0] { start with i := 0x0300, display := if lit then lightPixel start.display (3, 0) else start.display }

/-- For DrwTogglesSpriteAndReportsCollision and DrawingTwiceRestoresTheDisplay: a set S of the shape they ask for. -/
theorem witness_sprite_set :
    ∃ S : Pixel → Prop, ∀ p : Pixel, S p ↔ ∃ r c : Nat, r < 1 ∧ c < 8 ∧
      (memRead (drawStart true) ((drawStart true).i.toNat + r)).getLsbD (7 - c) = true ∧
      p.1.val = ((drawStart true).reg 0).toNat % 64 + c ∧ p.2.val = ((drawStart true).reg 1).toNat % 32 + r :=
  ⟨_, fun _ => Iff.rfl⟩

/-- For the two flag clauses of DrwTogglesSpriteAndReportsCollision: a sprite that meets a lit pixel in its last column, and one that
meets none. -/
theorem witness_collision :
    (∃ p ∈ spritePixels (drawStart true) 0 0 1, pixelLit (drawStart true).display p = true) ∧
      ∀ p ∈ spritePixels (drawStart false) 0 0 1, pixelLit (drawStart false).display p = false := by decide +kernel

/-- For DrawingTwiceRestoresTheDisplay. -/
theorem witness_draw : ∃ t, (0 : Reg) ≠ vf ∧ (1 : Reg) ≠ vf ∧ exec (.drw 0 1 1) (drawStart true) = .next t :=
  ⟨_, by decide, by decide, rfl⟩

/-- For KeySkipsFollowTheKey: each listed pair, with the key pressed. -/
theorem witness_key_pairs :
    ∀ ib ∈ [(Instr.skp 5, true), (.sknp 5, false)], ib ∈ [(Instr.skp 5, true), (.sknp 5, !true)] := by decide

/-- For TickDecrementsNonzeroTimers. -/
theorem witness_tick : (asking .tick start).pending = .tick :: [] := rfl

/-- For OnlyTimerLoadsChangeTimers: each timer changed. -/
theorem witness_timer_changes :
    (∃ t, exec (.ldDtVx 3) (withRegs [(3, 0x3C)] start) = .next t ∧ t.dt ≠ (withRegs [(3, 0x3C)] start).dt) ∧
      ∃ t, exec (.ldStVx 3) (withRegs [(3, 0x3C)] start) = .next t ∧ t.st ≠ (withRegs [(3, 0x3C)] start).st :=
  ⟨⟨_, rfl, by decide⟩, ⟨_, rfl, by decide⟩⟩

/-- For NoInstructionReadsSt and DiagnosticsAreInvisible: a next state of an instruction that writes ST and of one that reports. -/
theorem witness_next_states :
    (∃ t, exec (.ldStVx 1) start = .next t) ∧ ∃ t, exec .ret start = .next t ∧ t.log = [.stackUnderflow 0x0202] :=
  ⟨⟨_, rfl⟩, ⟨_, rfl, by decide⟩⟩

/-- For OnlyListedRegistersChange: VF changed by a flag. -/
theorem witness_register_changes :
    ∃ t, exec (.addReg 0 1) (withRegs [(0, 0x80), (1, 0x80)] start) = .next t ∧ t.reg vf ≠ (withRegs [(0, 0x80), (1, 0x80)] start).reg vf :=
  ⟨_, rfl, by decide⟩

/-- For OnlyCallAndRetMoveSp: the stack and SP changed. -/
theorem witness_stack_changes :
    (∃ t, exec (.call 0x300) start = .next t ∧ t.stack ≠ start.stack ∧ t.sp ≠ start.sp) ∧
      ∃ t, exec .ret { start with sp := 16 } = .next t ∧ t.sp ≠ 16 :=
  ⟨⟨_, rfl, by decide, by decide⟩, ⟨_, rfl, by decide⟩⟩

/-- For OnlyIndexInstructionsChangeI. -/
theorem witness_i_changes : ∃ t, exec (.ldI 0x120) start = .next t ∧ t.i ≠ start.i := ⟨_, rfl, by decide⟩

/-- For OnlyStoresAndDrawsReachMemoryAndDisplay: memory changed, and the display changed. -/
theorem witness_memory_and_display_changes :
    (∃ t, exec (.ldB 0) (withRegs [(0, 0xFE)] { start with i := 0x0300 }) = .next t ∧ t.mem ≠ []) ∧
      ∃ t, exec (.drw 0 1 1) (drawStart true) = .next t ∧ t.display ≠ (drawStart true).display :=
  ⟨⟨_, rfl, by decide⟩, ⟨_, rfl, by decide⟩⟩

/-- For QuirkReachesOnlyShifts. -/
theorem witness_no_shift :
    (∀ x y, Instr.addReg 0 1 ≠ .shr x y ∧ Instr.addReg 0 1 ≠ .shl x y) ∧ ∃ t, exec (.addReg 0 1) start = .next t :=
  ⟨by decide, ⟨_, rfl⟩⟩

/-- For NothingStopsTheCore and FrameIsIpfStepsThenTick, at the reset rate and at rate 0. -/
theorem witness_running :
    State.reset.Running ∧ ({ State.reset with ipf := 0 } : State).Running := ⟨⟨rfl, rfl⟩, ⟨rfl, rfl⟩⟩

/-- The step at which three diagnostics are reported (V-X-1). -/
def threeReports : State := withBytes 0xFFE [0x00, 0xEE] { State.reset with pc := 0xFFFE }

/-- For StepReportsInOrder and LogIsAppendOnly: a STEP that reports. -/
theorem witness_reporting_step : threeReports.Running ∧ ∃ t, step threeReports = .next t ∧ t.log.length = 3 :=
  ⟨⟨rfl, rfl⟩, ⟨_, rfl, by decide⟩⟩

/-- For EntriesAboveSpAreUnobservable: two states that differ in STACK[1] with SP = 1. -/
theorem witness_same_below_sp :
    State.SameBelowSp { start with sp := 1 } { start with sp := 1, stack := start.stack.set 1 0x0ABC } ∧
      ∃ t, step { start with sp := 1 } = .next t := by
  refine ⟨⟨rfl, ?_⟩, ⟨_, rfl⟩⟩
  intro j h hj
  have hj : j < 1 := hj
  obtain rfl : j = 0 := by omega
  rfl

/-- For LoadResetsAndCopiesImage: images of no byte and of as many as fit; one of one byte more is in `witness_refusals`. -/
theorem witness_load :
    (asking (.load []) start).pending = .load [] :: [] ∧ ([] : List Byte).length ≤ 3584 ∧
      (asking (.load (List.replicate 3584 0)) start).pending = .load (List.replicate 3584 0) :: [] ∧
      (List.replicate 3584 (0 : Byte)).length ≤ 3584 :=
  ⟨rfl, by decide, rfl, Nat.le_of_eq List.length_replicate⟩

/-- For RefusalsAreExactlyTheTwo: an image of one byte too many, and an operation before the first LOAD. -/
theorem witness_refusals :
    (asking (.load (List.replicate 3585 0)) start).pending = .load (List.replicate 3585 0) :: [] ∧
      (List.replicate 3585 (0 : Byte)).length > 3584 ∧
      (asking .step (State.construct Params.default)).pending = .step :: [] ∧ (asking .step (State.construct Params.default)).loaded = false :=
  ⟨rfl, by rw [List.length_replicate]; decide, rfl, rfl⟩

/-- For ConfigurationOperations. -/
theorem witness_configuration :
    (asking (.setQuirk true) start).pending = .setQuirk true :: [] ∧ (asking (.setIpf 0) start).pending = .setIpf 0 :: [] := ⟨rfl, rfl⟩

/-- For EqualMemoriesAreEqualData: memories whose cells lie at both ends of the address space. -/
theorem witness_canonical :
    Memory.wf [(0x000, 0x00#8), (0xFFF, 0x01#8)] ∧ Memory.wf (Memory.write (Memory.write [] 0xFFF 0x01) 0x000 0x00) ∧
      Memory.write (Memory.write [] 0xFFF 0x01) 0x000 0x00 = [(0x000, 0x00#8), (0xFFF, 0x01#8)] := by decide

/-- For StepKeepsTheInvariant. -/
theorem witness_invariant : (atWord 0x00EE State.reset).Inv ∧ ∃ t, step (atWord 0x00EE State.reset) = .next t :=
  ⟨⟨by decide, nofun, rfl⟩, ⟨_, rfl⟩⟩

end Sys2Proof.Tests
end

section
/-! The decoder and the match and mask table of spec/30_encoding.md R78. The masks of R78 are read as conditions on the fields of R72, each
group of R77 is given the rows it decodes to, and the two lists are compared major opcode by major opcode. -/

namespace Sys2Proof

/-! ### The masks of the table as conditions on fields -/

theorem fieldOp_and (w m : Word) : fieldOp (w &&& m) = fieldOp w &&& fieldOp m := BitVec.extractLsb'_and

theorem fieldNnn_and (w m : Word) : fieldNnn (w &&& m) = fieldNnn w &&& fieldNnn m := BitVec.extractLsb'_and

/-- A word is its major opcode and the twelve bits under it (R71). -/
theorem word_eq_iff (w v : Word) : w = v ↔ fieldOp w = fieldOp v ∧ fieldNnn w = fieldNnn v := by
  simp only [← BitVec.toNat_inj, fieldOp_toNat, fieldNnn_toNat]
  omega

/-- Every mask of R78 but the one of group 0x0 takes the major opcode and the j lowest bits, j = 0, 4 or 8. -/
theorem and_mask_eq_iff {m : Word} (j : Nat) (hop : fieldOp m = BitVec.allOnes 4) (hlow : (fieldNnn m).toNat = 2 ^ j - 1) (w v : Word) :
    w &&& m = v ↔ (fieldOp w).toNat = v.toNat / 4096 ∧ w.toNat % 4096 % 2 ^ j = v.toNat % 4096 := by
  rw [word_eq_iff, fieldOp_and, fieldNnn_and, hop, BitVec.and_allOnes, ← BitVec.toNat_inj, ← BitVec.toNat_inj, BitVec.toNat_and,
    hlow, Nat.and_two_pow_sub_one_eq_mod, fieldOp_toNat v, fieldNnn_toNat, fieldNnn_toNat]

@[simp] theorem and_F000_eq_iff (w v : Word) :
    w &&& 0xF000#16 = v ↔ (fieldOp w).toNat = v.toNat / 4096 ∧ v.toNat % 4096 = 0 := by
  rw [and_mask_eq_iff 0 rfl rfl, Nat.pow_zero, Nat.mod_one, eq_comm (a := 0)]

@[simp] theorem and_F00F_eq_iff (w v : Word) :
    w &&& 0xF00F#16 = v ↔ (fieldOp w).toNat = v.toNat / 4096 ∧ (fieldN w).toNat = v.toNat % 4096 := by
  have hn : w.toNat % 4096 % 2 ^ 4 = (fieldN w).toNat := by rw [fieldN_toNat]; omega
  rw [and_mask_eq_iff 4 rfl rfl, hn]

@[simp] theorem and_F0FF_eq_iff (w v : Word) :
    w &&& 0xF0FF#16 = v ↔ (fieldOp w).toNat = v.toNat / 4096 ∧ (fieldKk w).toNat = v.toNat % 4096 := by
  have hkk : w.toNat % 4096 % 2 ^ 8 = (fieldKk w).toNat := by rw [fieldKk_toNat]; omega
  rw [and_mask_eq_iff 8 rfl rfl, hkk]

/-- The mask of group 0x0 takes the whole word; its major opcode is said as well, as for the other masks. -/
@[simp] theorem and_FFFF_eq_iff (w v : Word) : w &&& 0xFFFF#16 = v ↔ (fieldOp w).toNat = v.toNat / 4096 ∧ w = v := by
  rw [show w &&& 0xFFFF#16 = w from BitVec.and_allOnes, fieldOp_toNat]
  exact ⟨fun h => ⟨by rw [h], h⟩, And.right⟩

/-! ### The rows each group decodes to -/

/-- The word selects row k of the table of R78. -/
def SelectsRow (w : Word) (k : Nat) : Prop := ∃ r ∈ opcodeTable, r.num = k ∧ w &&& r.mask = r.value

/-- The answer of a decoder is an instruction of row k of R78. -/
def DecodesToRow (d : Except Reject Instr) (k : Nat) : Prop := ∃ i, d = .ok i ∧ i.row = k

@[simp] theorem decodesToRow_ok (i : Instr) (k : Nat) : DecodesToRow (.ok i) k ↔ i.row = k := by
  simp [DecodesToRow]

@[simp] theorem not_decodesToRow_error (e : Reject) (k : Nat) : ¬ DecodesToRow (.error e) k := by
  simp [DecodesToRow]

theorem decodeGroup0_row (w : Word) (k : Nat) :
    DecodesToRow (decodeGroup0 w) k ↔ 1 = k ∧ w = 0x00E0#16 ∨ 2 = k ∧ w = 0x00EE#16 := by
  unfold decodeGroup0
  split_ifs <;> simp_all [Instr.row]

theorem decodeNibbleZero_row (w : Word) (i : Instr) (k : Nat) :
    DecodesToRow (decodeNibbleZero w i) k ↔ i.row = k ∧ (fieldN w).toNat = 0x0 := by
  unfold decodeNibbleZero
  split_ifs <;> simp_all [← BitVec.toNat_inj]

theorem decodeGroup8_row (w : Word) (k : Nat) :
    DecodesToRow (decodeGroup8 w) k ↔
      10 = k ∧ (fieldN w).toNat = 0x0 ∨ 11 = k ∧ (fieldN w).toNat = 0x1 ∨ 12 = k ∧ (fieldN w).toNat = 0x2 ∨
      13 = k ∧ (fieldN w).toNat = 0x3 ∨ 14 = k ∧ (fieldN w).toNat = 0x4 ∨ 15 = k ∧ (fieldN w).toNat = 0x5 ∨
      16 = k ∧ (fieldN w).toNat = 0x6 ∨ 17 = k ∧ (fieldN w).toNat = 0x7 ∨ 18 = k ∧ (fieldN w).toNat = 0xE := by
  unfold decodeGroup8
  split <;> simp_all [Instr.row]

theorem decodeGroupE_row (w : Word) (k : Nat) :
    DecodesToRow (decodeGroupE w) k ↔ 24 = k ∧ (fieldKk w).toNat = 0x9E ∨ 25 = k ∧ (fieldKk w).toNat = 0xA1 := by
  unfold decodeGroupE
  split <;> simp_all [Instr.row]

theorem decodeGroupF_row (w : Word) (k : Nat) :
    DecodesToRow (decodeGroupF w) k ↔
      26 = k ∧ (fieldKk w).toNat = 0x07 ∨ 27 = k ∧ (fieldKk w).toNat = 0x15 ∨ 28 = k ∧ (fieldKk w).toNat = 0x18 ∨
      29 = k ∧ (fieldKk w).toNat = 0x1E ∨ 30 = k ∧ (fieldKk w).toNat = 0x29 ∨ 31 = k ∧ (fieldKk w).toNat = 0x33 ∨
      32 = k ∧ (fieldKk w).toNat = 0x55 ∨ 33 = k ∧ (fieldKk w).toNat = 0x65 := by
  unfold decodeGroupF
  split <;> simp_all [Instr.row]

/-! ### The two lists are the same -/

/-- For each major opcode, the rows of its group of the decoder are the rows of the table that have this major opcode. -/
theorem decodeWord_row (w : Word) (k : Nat) : DecodesToRow (decodeWord w) k ↔ SelectsRow w k := by
  -- every row of the table as a condition on the row number and the fields
  simp only [SelectsRow, opcodeTable, BitVec.ofNat_eq_ofNat, List.cons_append, List.nil_append, List.mem_cons, List.not_mem_nil,
    or_false, exists_eq_or_imp, exists_eq_left, and_FFFF_eq_iff, and_F000_eq_iff, and_F00F_eq_iff, and_F0FF_eq_iff,
    BitVec.toNat_ofNat, Nat.reducePow, Nat.reduceMod, Nat.reduceDiv, and_true]
  unfold decodeWord
  split
  case h_1 hop => simp [decodeGroup0_row, hop]
  case h_6 hop | h_10 hop => simp [decodeNibbleZero_row, hop, Instr.row]
  case h_9 hop => simp [decodeGroup8_row, hop]
  case h_15 hop => simp [decodeGroupE_row, hop]
  case h_16 hop => simp [decodeGroupF_row, hop]
  case h_17 =>
    exfalso
    have hlt := (fieldOp w).isLt
    simp only [imp_false] at *
    omega
  -- the groups of one row each
  all_goals
    rename_i hop
    simp [hop, Instr.row]

theorem decodeWord_error_of_no_row {w : Word} (h : ∀ r ∈ opcodeTable, w &&& r.mask ≠ r.value) : ∃ e, decodeWord w = .error e := by
  cases hw : decodeWord w with
  | error e => exact ⟨e, rfl⟩
  | ok i =>
    obtain ⟨r, hr, -, hsel⟩ := (decodeWord_row w i.row).1 ⟨i, hw, rfl⟩
    exact absurd hsel (h r hr)

/-- Settles O4: the rows are compared group by group in `decodeWord_row`. -/
theorem decoderAgreesWithOpcodeTable : Obligations.DecoderAgreesWithOpcodeTable := decodeWord_row

end Sys2Proof
end

section
/-! STEP and EXECUTE of one word (spec/30_encoding.md R84, R85): an instruction, or a word that is none. -/

namespace Sys2Proof.Machine

/-- EXECUTE as the host's next operation: the word, from the state without the request (R85). -/
theorem step_execute {s : State} {w : Word} {rest : List HostOp} (hloaded : s.loaded = true)
    (hpending : s.pending = .execute w :: rest) : step s = executeWord w { s with pending := rest } := by
  rw [step_pending hpending]
  exact executeOp_eq (s := { s with pending := rest }) hloaded w

/-- Settles O1: the word at PC decodes to what its two bytes decode to, and the fetch leaves the state of `fetchState_eq`. -/
theorem stepRunsTheDecodedInstruction : Obligations.StepRunsTheDecodedInstruction := by
  intro s i hrunning hdecode
  have hword : decodeWord (fetchWord s) = .ok i := (decode_pair _ _ i).1 hdecode
  rw [step_running hrunning, executeWord_ok hword, fetchState_eq]

/-- Settles O3: a word that selects no row is rejected by the decoder (O4), so executing it only reports it. -/
theorem unrecognizedWordOnlyReports : Obligations.UnrecognizedWordOnlyReports := by
  intro s w hloaded hnone
  obtain ⟨e, hreject⟩ := decodeWord_error_of_no_row hnone
  constructor
  · intro rest hpending
    rw [step_execute hloaded hpending, executeWord_error hreject]
  · rintro hpending rfl
    rw [step_running ⟨hloaded, hpending⟩, executeWord_error hreject, fetchState_eq]

end Sys2Proof.Machine
end

section
/-! Control transfer (spec/40_control_flow.md): the next state of each of its instructions, in one equation per case. -/

namespace Sys2Proof.Machine

/-! ### Skips (R100) -/

theorem exec_seImm (x : Reg) (kk : Byte) (s : State) : exec (.seImm x kk) s = .next (if s.reg x = kk then skip s else s) := rfl

theorem exec_sneImm (x : Reg) (kk : Byte) (s : State) : exec (.sneImm x kk) s = .next (if s.reg x = kk then s else skip s) :=
  congrArg _ (ite_not _ _ _)

theorem exec_seReg (x y : Reg) (s : State) : exec (.seReg x y) s = .next (if s.reg x = s.reg y then skip s else s) := rfl

theorem exec_sneReg (x y : Reg) (s : State) : exec (.sneReg x y) s = .next (if s.reg x = s.reg y then s else skip s) :=
  congrArg _ (ite_not _ _ _)

/-- A skip taken: PC moves on by 2, with the reports of that addition. -/
theorem skip_effect (s : State) : (skip s).pc.toNat = (s.pc.toNat + 2) % 65536 ∧ (skip s).log = s.log ++ skipReports s.pc := by
  rw [skip_eq]
  exact ⟨pc_add_two_toNat s.pc, rfl⟩

/-- An instruction that skips when `p` holds (SE). -/
theorem next_of_skipIf {i : Instr} {s : State} {p : Prop} [Decidable p] (hexec : exec i s = .next (if p then skip s else s)) :
    ∃ t, exec i s = .next t ∧ t.pc.toNat = (if p then (s.pc.toNat + 2) % 65536 else s.pc.toNat) ∧
      t.log = s.log ++ (if p then skipReports s.pc else []) ∧ t = { s with pc := t.pc, log := t.log } := by
  obtain ⟨hpc, hlog⟩ := skip_effect s
  refine ⟨_, hexec, ?_, ?_, ite_skip_frame p s⟩
  · rw [apply_ite (fun t : State => t.pc.toNat), hpc]
  · split <;> simp [hlog]

/-- An instruction that skips unless `p` holds (SNE). -/
theorem next_of_skipUnless {i : Instr} {s : State} {p : Prop} [Decidable p] (hexec : exec i s = .next (if p then s else skip s)) :
    ∃ t, exec i s = .next t ∧ t.pc.toNat = (if p then s.pc.toNat else (s.pc.toNat + 2) % 65536) ∧
      t.log = s.log ++ (if p then [] else skipReports s.pc) ∧ t = { s with pc := t.pc, log := t.log } := by
  rw [← ite_not] at hexec
  simpa only [ite_not] using next_of_skipIf hexec

/-- Settles O10: one skip, on the comparison with the byte and on its negation. -/
theorem immediateSkips : Obligations.ImmediateSkips := fun x kk s =>
  ⟨next_of_skipIf (exec_seImm x kk s), next_of_skipUnless (exec_sneImm x kk s)⟩

/-- Settles O11: one skip, on the comparison of the two registers and on its negation. -/
theorem registerSkips : Obligations.RegisterSkips := fun x y s =>
  ⟨next_of_skipIf (exec_seReg x y s), next_of_skipUnless (exec_sneReg x y s)⟩

/-! ### Jumps (R102, R108) -/

theorem exec_jp (nnn : Nnn) (s : State) : exec (.jp nnn) s = .next { s with pc := zextNnn nnn } := rfl

theorem exec_jpV0 (nnn : Nnn) (s : State) : exec (.jpV0 nnn) s = .next { s with pc := jumpV0Target nnn s } := rfl

@[simp] theorem zextNnn_toNat (nnn : Nnn) : (zextNnn nnn).toNat = nnn.toNat :=
  BitVec.toNat_setWidth_of_le (by decide)

@[simp] theorem zextByte_toNat (b : Byte) : (zextByte b).toNat = b.toNat :=
  BitVec.toNat_setWidth_of_le (by decide)

/-- The sum of a 12-bit address and a byte stays below 2^16, so the 16-bit addition is exact (D9: no mask). -/
theorem jumpV0Target_toNat (nnn : Nnn) (s : State) : (jumpV0Target nnn s).toNat = nnn.toNat + (s.reg 0).toNat := by
  have hnnn := nnn.isLt
  have hv0 := (s.reg 0).isLt
  rw [jumpV0Target, BitVec.toNat_add, zextNnn_toNat, zextByte_toNat]
  omega

/-- Settles O12: both write PC alone, and neither target needs reducing. -/
theorem jumpsSetPcOnly : Obligations.JumpsSetPcOnly := fun nnn s =>
  ⟨⟨_, exec_jp nnn s, zextNnn_toNat nnn, rfl⟩, ⟨_, exec_jpV0 nnn s, jumpV0Target_toNat nnn s, rfl⟩⟩

/-! ### CALL and RET (R103, R101) -/

theorem exec_call (nnn : Nnn) (s : State) : exec (.call nnn) s = .next ((pushReturn nnn s).setPc (zextNnn nnn)) := rfl

theorem exec_call_of_lt (nnn : Nnn) {s : State} (h : s.sp.val < 16) : exec (.call nnn) s =
    .next { s with stack := s.stack.set s.sp.val s.pc, sp := ⟨s.sp.val + 1, by omega⟩, pc := zextNnn nnn } := by
  rw [exec_call, pushReturn_of_lt nnn h, State.setPc]

theorem exec_call_of_full (nnn : Nnn) {s : State} (h : ¬ s.sp.val < 16) : exec (.call nnn) s =
    .next { s with log := s.log ++ [.stackOverflow s.pc nnn], pc := zextNnn nnn } := by
  rw [exec_call, pushReturn_of_full nnn h, State.setPc]

theorem exec_ret_of_pos {s : State} (h : ¬ s.sp.val = 0) : exec .ret s =
    .next { s with pc := s.stack[s.sp.val - 1]'(by omega), sp := ⟨s.sp.val - 1, by omega⟩ } :=
  congrArg _ (popReturn_of_pos h)

theorem exec_ret_of_empty {s : State} (h : s.sp.val = 0) : exec .ret s =
    .next { s with log := s.log ++ [.stackUnderflow s.pc] } :=
  congrArg _ (popReturn_of_empty h)

/-- Settles O13: the push with room on the stack, and its refusal on a full one; PC branches in both. -/
theorem callPushesReturnAddress : Obligations.CallPushesReturnAddress := by
  intro nnn s
  constructor
  · intro hroom
    exact ⟨_, exec_call_of_lt nnn hroom, Vector.getElem_set_self hroom, rfl, zextNnn_toNat nnn,
      fun j hj hne => Vector.getElem_set_ne hroom hj hne.symm, rfl⟩
  · intro hfull
    exact ⟨_, exec_call_of_full nnn (by omega), zextNnn_toNat nnn, rfl, rfl⟩

/-- Settles O14: the pop of an occupied entry, and the report of an empty stack. -/
theorem retPopsReturnAddress : Obligations.RetPopsReturnAddress := by
  intro s
  constructor
  · intro hoccupied
    exact ⟨_, exec_ret_of_pos hoccupied.ne', rfl, rfl, rfl⟩
  · exact exec_ret_of_empty

end Sys2Proof.Machine
end

section
/-! Register loads and ALU (spec/41_alu.md): the next state of each instruction, what the two shapes of register write leave, and the
arithmetic of bytes as numbers. -/

namespace Sys2Proof.Machine

/-! ### Writes of Vx alone (R131 to R136) -/

theorem exec_ldImm (x : Reg) (kk : Byte) (s : State) : exec (.ldImm x kk) s = .next (s.setReg x kk) := rfl

theorem exec_addImm (x : Reg) (kk : Byte) (s : State) : exec (.addImm x kk) s = .next (s.setReg x (s.reg x + kk)) := rfl

theorem exec_ldReg (x y : Reg) (s : State) : exec (.ldReg x y) s = .next (s.setReg x (s.reg y)) := rfl

theorem exec_orReg (x y : Reg) (s : State) : exec (.orReg x y) s = .next (s.setReg x (s.reg x ||| s.reg y)) := rfl

theorem exec_andReg (x y : Reg) (s : State) : exec (.andReg x y) s = .next (s.setReg x (s.reg x &&& s.reg y)) := rfl

theorem exec_xorReg (x y : Reg) (s : State) : exec (.xorReg x y) s = .next (s.setReg x (s.reg x ^^^ s.reg y)) := rfl

theorem reg_setReg_self (s : State) (x : Reg) (b : Byte) : (s.setReg x b).reg x = b := by
  rw [reg_setReg, if_pos rfl]

theorem reg_setReg_of_ne (s : State) (x : Reg) (b : Byte) : ∀ r, r ≠ x → (s.setReg x b).reg r = s.reg r :=
  fun r hr => by rw [reg_setReg, if_neg hr]

/-- An instruction that writes one register. -/
theorem next_of_setReg {i : Instr} {x : Reg} {b : Byte} {s : State} (hexec : exec i s = .next (s.setReg x b)) :
    ∃ t, exec i s = .next t ∧ t.reg x = b ∧ (∀ r, r ≠ x → t.reg r = s.reg r) ∧ t = { s with v := t.v } :=
  ⟨_, hexec, reg_setReg_self s x b, reg_setReg_of_ne s x b, rfl⟩

/-- Settles O17: each of the five is one register write of the listed value. -/
theorem loadsAndLogicWriteVxOnly : Obligations.LoadsAndLogicWriteVxOnly := by
  intro x y kk s
  simp only [List.forall_mem_cons]
  exact ⟨next_of_setReg (exec_ldImm x kk s), next_of_setReg (exec_ldReg x y s), next_of_setReg (exec_orReg x y s),
    next_of_setReg (exec_andReg x y s), next_of_setReg (exec_xorReg x y s), List.forall_mem_nil _⟩

/-- Settles O18: one register write, of the 8-bit sum. -/
theorem addImmediateIsSilent : Obligations.AddImmediateIsSilent := by
  intro x kk s
  obtain ⟨t, hexec, hsum, hframe⟩ := next_of_setReg (exec_addImm x kk s)
  exact ⟨t, hexec, by rw [hsum, BitVec.toNat_add], hframe⟩

/-! ### Writes of VF and then Vx (R130, R137 to R141) -/

theorem exec_addReg (x y : Reg) (s : State) : exec (.addReg x y) s =
    .next (writeFlagAndResult x (carryFlag (s.reg x) (s.reg y)) (s.reg x + s.reg y) s) := rfl

theorem exec_sub (x y : Reg) (s : State) : exec (.sub x y) s =
    .next (writeFlagAndResult x (noBorrowFlag (s.reg x) (s.reg y)) (s.reg x - s.reg y) s) := rfl

theorem exec_shr (x y : Reg) (s : State) : exec (.shr x y) s =
    .next (writeFlagAndResult x (shrFlag (shiftSource x y s)) (shiftSource x y s >>> 1) s) := rfl

theorem exec_subn (x y : Reg) (s : State) : exec (.subn x y) s =
    .next (writeFlagAndResult x (noBorrowFlag (s.reg y) (s.reg x)) (s.reg y - s.reg x) s) := rfl

theorem exec_shl (x y : Reg) (s : State) : exec (.shl x y) s =
    .next (writeFlagAndResult x (shlFlag (shiftSource x y s)) (shiftSource x y s <<< 1) s) := rfl

/-- An instruction that writes VF and then Vx: the result is in Vx in any case, the flag in VF unless x = F (D3). -/
theorem next_of_writeFlagAndResult {i : Instr} {x : Reg} {flag : Bool} {b : Byte} {s : State}
    (hexec : exec i s = .next (writeFlagAndResult x flag b s)) :
    ∃ t, exec i s = .next t ∧ t.reg x = b ∧ (x ≠ vf → t.reg vf = flagByte flag) ∧
      (∀ r, r ≠ x → r ≠ vf → t.reg r = s.reg r) ∧ t = { s with v := t.v } := by
  refine ⟨_, hexec, ?_, fun hx => ?_, fun r hrx hrf => ?_, writeFlagAndResult_eq x flag b s⟩
  · rw [reg_writeFlagAndResult, if_pos rfl]
  · rw [reg_writeFlagAndResult, if_neg hx.symm, if_pos rfl]
  · rw [reg_writeFlagAndResult, if_neg hrx, if_neg hrf]

/-! ### The carry and the no-borrow flag (R137, R138, R140) -/

theorem flagByte_decide (p : Prop) [Decidable p] : flagByte (decide p) = if p then 1 else 0 := by
  simp [flagByte]

theorem flagByte_carryFlag (a b : Byte) : flagByte (carryFlag a b) = if a.toNat + b.toNat > 255 then 1 else 0 :=
  flagByte_decide _

theorem flagByte_noBorrowFlag (a b : Byte) : flagByte (noBorrowFlag a b) = if a.toNat > b.toNat then 1 else 0 :=
  flagByte_decide _

theorem byte_sub_toNat (a b : Byte) : (a - b).toNat = (a.toNat + 256 - b.toNat) % 256 := by
  have hb := b.isLt
  rw [BitVec.toNat_sub]
  omega

/-- An instruction that subtracts `b` from `a`: SUB and SUBN are the two orders of the operands. -/
theorem next_of_difference {i : Instr} {x : Reg} {a b : Byte} {s : State}
    (hexec : exec i s = .next (writeFlagAndResult x (noBorrowFlag a b) (a - b) s)) :
    ∃ t, exec i s = .next t ∧ (t.reg x).toNat = (a.toNat + 256 - b.toNat) % 256 ∧
      (x ≠ vf → t.reg vf = (if a.toNat > b.toNat then 1 else 0)) ∧
      (∀ r, r ≠ x → r ≠ vf → t.reg r = s.reg r) ∧ t = { s with v := t.v } := by
  obtain ⟨t, hnext, hresult, hflag, hframe⟩ := next_of_writeFlagAndResult hexec
  exact ⟨t, hnext, by rw [hresult, byte_sub_toNat], fun hx => by rw [hflag hx, flagByte_noBorrowFlag], hframe⟩

/-- Settles O19: the carry flag, then the 8-bit sum. -/
theorem addSetsCarry : Obligations.AddSetsCarry := by
  intro x y s
  obtain ⟨t, hexec, hsum, hcarry, hframe⟩ := next_of_writeFlagAndResult (exec_addReg x y s)
  exact ⟨t, hexec, by rw [hsum, BitVec.toNat_add], fun hx => by rw [hcarry hx, flagByte_carryFlag], hframe⟩

/-- Settles O20: one subtraction, in both orders of the operands. -/
theorem subtractSetsNoBorrow : Obligations.SubtractSetsNoBorrow := fun x y s =>
  ⟨next_of_difference (exec_sub x y s), next_of_difference (exec_subn x y s)⟩

/-! ### Shifts (R139, R141) -/

theorem flagByte_toNat (b : Bool) : (flagByte b).toNat = b.toNat := by
  cases b <;> rfl

/-- Bit 0 of a byte is its remainder by 2. -/
theorem flagByte_shrFlag_toNat (src : Byte) : (flagByte (shrFlag src)).toNat = src.toNat % 2 := by
  rw [flagByte_toNat, shrFlag, BitVec.getLsbD, Nat.toNat_testBit, Nat.pow_zero, Nat.div_one]

/-- Bit 7 of a byte is its quotient by 128: there is no higher bit. -/
theorem flagByte_shlFlag_toNat (src : Byte) : (flagByte (shlFlag src)).toNat = src.toNat / 128 := by
  have hsrc := src.isLt
  rw [flagByte_toNat, shlFlag, BitVec.getLsbD, Nat.toNat_testBit]
  omega

theorem byte_shiftRight_one_toNat (src : Byte) : (src >>> 1).toNat = src.toNat / 2 := by
  rw [BitVec.toNat_ushiftRight, Nat.shiftRight_eq_div_pow, Nat.pow_one]

theorem byte_shiftLeft_one_toNat (src : Byte) : (src <<< 1).toNat = src.toNat * 2 % 256 := by
  rw [BitVec.toNat_shiftLeft, Nat.shiftLeft_eq, Nat.pow_one]

/-- Settles O21: the source of both is `shiftSource`, whose definition is the statement's choice by the quirk. -/
theorem shiftsMoveOneBitIntoVf : Obligations.ShiftsMoveOneBitIntoVf := by
  intro x y s src hsrc
  have hsrc : src = (shiftSource x y s).toNat := hsrc
  constructor
  · obtain ⟨t, hexec, hresult, hflag, hframe⟩ := next_of_writeFlagAndResult (exec_shr x y s)
    exact ⟨t, hexec, by rw [hresult, byte_shiftRight_one_toNat, hsrc],
      fun hx => by rw [hflag hx, flagByte_shrFlag_toNat, hsrc], hframe⟩
  · obtain ⟨t, hexec, hresult, hflag, hframe⟩ := next_of_writeFlagAndResult (exec_shl x y s)
    exact ⟨t, hexec, by rw [hresult, byte_shiftLeft_one_toNat, hsrc],
      fun hx => by rw [hflag hx, flagByte_shlFlag_toNat, hsrc], hframe⟩

/-! ### RND (R142, R274) -/

theorem exec_rnd (x : Reg) (kk : Byte) (s : State) : exec (.rnd x kk) s =
    .next ((randByte s).2.setReg x (randSample s &&& kk)) := rfl

/-- The host's byte is drawn first where there is one (log 7). -/
theorem randSample_of_cons {s : State} {r : Byte} {rest : List Byte} (h : s.randIn = r :: rest) : randSample s = r := by
  rw [randSample, h, List.headD_cons]

theorem randSample_of_nil {s : State} (h : s.randIn = []) : randSample s = Config.freeByte s.draws := by
  rw [randSample, h, List.headD_nil]

theorem randByte_randIn (s : State) : (randByte s).2.randIn = s.randIn.tail := rfl

/-- Settles O23: the byte is the sample of one draw, and the draw is `randByte_snd`. -/
theorem rndMasksOneFreeByte : Obligations.RndMasksOneFreeByte := by
  intro x kk s
  refine ⟨_, randSample s, exec_rnd x kk s, reg_setReg_self _ x _, fun r rest h => ?_, fun h => ?_, ?_, rfl, rfl, rfl⟩
  · exact ⟨randSample_of_cons h, by rw [setReg_randIn, randByte_randIn, h, List.tail_cons]⟩
  · exact ⟨randSample_of_nil h, by rw [setReg_randIn, randByte_randIn, h, List.tail_nil]⟩
  · exact reg_setReg_of_ne (randByte s).2 x _

end Sys2Proof.Machine
end

section
/-! The index register and memory transfers (spec/42_index_memory.md): the next state of each instruction, and what the loops of Fx55 and
Fx65 leave in memory and in the registers. -/

namespace Sys2Proof.Machine

/-! ### The register transfers (R175, R176) -/

theorem exec_storeRegs (x : Reg) (s : State) : exec (.storeRegs x) s = .next ((regsUpTo x).foldl storeReg s) := rfl

theorem exec_loadRegs (x : Reg) (s : State) : exec (.loadRegs x) s = .next ((regsUpTo x).foldl loadReg s) := rfl

/-- The 16 bytes reached through I lie at different addresses, where they wrap at 0x0FFF too. -/
theorem maskAddr_indexAddr_inj {s : State} {j k : Reg} (h : maskAddr (indexAddr s j) = maskAddr (indexAddr s k)) : j = k := by
  unfold maskAddr indexAddr at h
  exact Fin.ext (by omega)

theorem memRead_storeReg (s : State) (k : Reg) (a : Nat) :
    memRead (storeReg s k) a = if maskAddr a = maskAddr (indexAddr s k) then s.reg k else memRead s a :=
  memRead_memWrite s _ a _

/-- The loop of Fx55 leaves every byte it does not reach. -/
theorem memRead_foldl_storeReg_of_ne {a : Nat} (ks : List Reg) : ∀ s : State,
    (∀ k ∈ ks, maskAddr a ≠ maskAddr (indexAddr s k)) → memRead (ks.foldl storeReg s) a = memRead s a := by
  induction ks with
  | nil => exact fun _ _ => rfl
  | cons j js ih =>
    intro s hne
    obtain ⟨hj, hjs⟩ := List.forall_mem_cons.1 hne
    rw [List.foldl_cons, ih (storeReg s j) hjs, memRead_storeReg, if_neg hj]

/-- The loop of Fx55 stores each of its registers: no later step of the loop reaches the byte of another register. -/
theorem memRead_foldl_storeReg_of_mem {k : Reg} (ks : List Reg) : ∀ s : State,
    k ∈ ks → memRead (ks.foldl storeReg s) (indexAddr s k) = s.reg k := by
  induction ks with
  | nil => exact fun _ hk => absurd hk List.not_mem_nil
  | cons j js ih =>
    intro s hk
    rw [List.foldl_cons]
    by_cases hjs : k ∈ js
    · exact ih (storeReg s j) hjs
    · obtain rfl : k = j := (List.mem_cons.1 hk).resolve_right hjs
      have hlater : ∀ i ∈ js, maskAddr (indexAddr s k) ≠ maskAddr (indexAddr s i) :=
        fun i hi heq => hjs (maskAddr_indexAddr_inj heq ▸ hi)
      rw [memRead_foldl_storeReg_of_ne js (storeReg s k) hlater, memRead_storeReg, if_pos rfl]

@[simp] theorem memRead_loadReg (s : State) (k : Reg) (a : Nat) : memRead (loadReg s k) a = memRead s a := rfl

@[simp] theorem indexAddr_loadReg (s : State) (j : Reg) (k : Nat) : indexAddr (loadReg s j) k = indexAddr s k := rfl

theorem reg_loadReg (s : State) (j k : Reg) :
    (loadReg s j).reg k = if k = j then memRead s (indexAddr s k) else s.reg k := by
  rw [loadReg, reg_setReg]
  split
  case isTrue h => rw [h]
  case isFalse => rfl

/-- The loop of Fx65 loads each of its registers and leaves the others: it changes neither I nor memory on the way. -/
theorem reg_foldl_loadReg {k : Reg} (ks : List Reg) : ∀ s : State,
    (ks.foldl loadReg s).reg k = if k ∈ ks then memRead s (indexAddr s k) else s.reg k := by
  induction ks with
  | nil => exact fun _ => rfl
  | cons j js ih =>
    intro s
    rw [List.foldl_cons, ih, memRead_loadReg, indexAddr_loadReg, reg_loadReg]
    by_cases hjs : k ∈ js
    · rw [if_pos hjs, if_pos (List.mem_cons_of_mem j hjs)]
    · simp [hjs]

/-- Settles O26: the loop runs over the registers up to x, and their bytes are distinct. -/
theorem storeRegistersWritesV0ToVx : Obligations.StoreRegistersWritesV0ToVx := by
  intro x s
  refine ⟨_, exec_storeRegs x s, fun k hk => ?_, fun a ha => ?_, foldl_storeReg_eq _ s⟩
  · exact memRead_foldl_storeReg_of_mem _ s ((mem_regsUpTo x k).2 hk)
  · exact memRead_foldl_storeReg_of_ne _ s fun k hk => ha k ((mem_regsUpTo x k).1 hk)

/-- Settles O27: the loop runs over the registers up to x, and each is loaded from memory as it was. -/
theorem loadRegistersReadsV0ToVx : Obligations.LoadRegistersReadsV0ToVx := by
  intro x s
  refine ⟨_, exec_loadRegs x s, fun k hk => ?_, fun k hk => ?_, foldl_loadReg_eq _ s⟩
  · rw [reg_foldl_loadReg, if_pos ((mem_regsUpTo x k).2 hk)]
  · rw [reg_foldl_loadReg, if_neg fun hmem => hk.not_ge ((mem_regsUpTo x k).1 hmem)]

/-! ### Writes of I alone (R171 to R173) -/

theorem exec_ldI (nnn : Nnn) (s : State) : exec (.ldI nnn) s = .next (s.setI (zextNnn nnn)) := rfl

theorem exec_addI (x : Reg) (s : State) : exec (.addI x) s = .next (s.setI (s.i + zextByte (s.reg x))) := rfl

theorem exec_ldF (x : Reg) (s : State) : exec (.ldF x) s = .next (s.setI (glyphAddr x s)) := rfl

theorem add_zextByte_toNat (a : Word) (b : Byte) : (a + zextByte b).toNat = (a.toNat + b.toNat) % 65536 := by
  rw [BitVec.toNat_add, zextByte_toNat]

/-- Five times a byte stays below 2^16, so the 16-bit product is exact (D15). -/
theorem glyphAddr_toNat (x : Reg) (s : State) : (glyphAddr x s).toNat = (s.reg x).toNat * 5 := by
  have hvx := (s.reg x).isLt
  rw [glyphAddr, BitVec.toNat_mul, zextByte_toNat, BitVec.toNat_ofNat]
  omega

/-- An instruction that writes I. -/
theorem next_of_setI {i : Instr} {a : Word} {n : Nat} {s : State} (hexec : exec i s = .next (s.setI a)) (ha : a.toNat = n) :
    ∃ t, exec i s = .next t ∧ t.i.toNat = n ∧ t = { s with i := t.i } :=
  ⟨_, hexec, ha, rfl⟩

/-- Settles O24: each of the three is one write of I, of the listed value. -/
theorem indexInstructionsWriteIOnly : Obligations.IndexInstructionsWriteIOnly := by
  intro nnn x s
  simp only [List.forall_mem_cons]
  exact ⟨next_of_setI (exec_ldI nnn s) (zextNnn_toNat nnn), next_of_setI (exec_addI x s) (add_zextByte_toNat s.i (s.reg x)),
    next_of_setI (exec_ldF x s) (glyphAddr_toNat x s), List.forall_mem_nil _⟩

end Sys2Proof.Machine
end

section
/-! Display and input (spec/43_display_input.md): CLS, and the skips on a key (R204, R205), which query the input port before they skip. -/

namespace Sys2Proof.Machine

/-! ### CLS (R201) -/

theorem exec_cls (s : State) : exec .cls s =
    .next { s with display := Config.clearDisplay, calls := s.calls ++ [.clearAll] } := rfl

/-- Settles O30: the next state holds the clear display, and the one call. -/
theorem clsClearsEveryPixel : Obligations.ClsClearsEveryPixel := fun s =>
  ⟨_, exec_cls s, pixelLit_clearDisplay, rfl, rfl⟩

/-! ### The key query (R272, R273) -/

/-- The host's key state is sampled first where there is one (log 6). -/
theorem keySample_of_cons {s : State} {m : BitVec 16} {rest : List (BitVec 16)} (h : s.keyIn = m :: rest) : keySample s = m := by
  rw [keySample, h, List.headD_cons]

theorem keySample_of_nil {s : State} (h : s.keyIn = []) : keySample s = Config.freeKeys s.draws := by
  rw [keySample, h, List.headD_nil]

/-! ### SKP and SKNP (R204, R205) -/

theorem exec_skp (x : Reg) (s : State) : exec (.skp x) s =
    .next (if (keySample s).getLsbD (keyIndex x s) then skip (keyPressed (keyIndex x s) s).2 else (keyPressed (keyIndex x s) s).2) := rfl

/-- SKNP is SKP with the answer negated. -/
theorem exec_sknp (x : Reg) (s : State) : exec (.sknp x) s =
    .next (if !(keySample s).getLsbD (keyIndex x s) then skip (keyPressed (keyIndex x s) s).2
      else (keyPressed (keyIndex x s) s).2) := by
  simp only [Bool.not_eq_true', ← Bool.not_eq_true, ite_not]
  rfl

/-- An instruction that queries a key and then skips when `b` holds: PC and the log change by the skip, the input queue, its counter
and the calls by the query. -/
theorem next_of_queryThenSkipIf {i : Instr} {s : State} {k : Key} {b : Bool}
    (hexec : exec i s = .next (if b then skip (keyPressed k s).2 else (keyPressed k s).2)) :
    ∃ t, exec i s = .next t ∧ t.pc.toNat = (if b then (s.pc.toNat + 2) % 65536 else s.pc.toNat) ∧
      t.log = s.log ++ (if b then skipReports s.pc else []) ∧ t.draws = s.draws + 1 ∧ t.keyIn = s.keyIn.tail ∧
      t.calls = s.calls ++ [.keyPressed k] ∧
      t = { s with pc := t.pc, log := t.log, draws := t.draws, keyIn := t.keyIn, calls := t.calls } := by
  rw [skip_eq, keyPressed_snd] at hexec
  cases b
  case false => exact ⟨_, hexec, rfl, (List.append_nil _).symm, rfl, rfl, rfl, rfl⟩
  case true => exact ⟨_, hexec, pc_add_two_toNat s.pc, rfl, rfl, rfl, rfl, rfl⟩

/-- Settles O34: one query of `keyIndex`, whose definition is the low nibble of Vx, then a skip on its answer or on the negation. -/
theorem keySkipsFollowTheKey : Obligations.KeySkipsFollowTheKey := by
  intro x s
  refine ⟨keySample s, _, fun _ _ => keySample_of_cons, keySample_of_nil, rfl, fun ib hib => ?_⟩
  have hexec : exec ib.1 s = .next (if ib.2 then skip (keyPressed (keyIndex x s) s).2 else (keyPressed (keyIndex x s) s).2) := by
    obtain rfl | rfl := List.mem_pair.1 hib
    · exact exec_skp x s
    · exact exec_sknp x s
  obtain ⟨t, hnext, hpc, hlog, hdraws, hkeyIn, hcalls, hframe⟩ := next_of_queryThenSkipIf hexec
  exact ⟨t, hnext, hpc, hlog, hdraws, hkeyIn, ⟨keyIndex x s, rfl, hcalls⟩, hframe⟩

end Sys2Proof.Machine
end

section
/-! Timers (spec/44_timers.md): the next state of each timer instruction, which is one write of the model's state. -/

namespace Sys2Proof.Machine

theorem exec_ldVxDt (x : Reg) (s : State) : exec (.ldVxDt x) s = .next (s.setReg x s.dt) := rfl

theorem exec_ldDtVx (x : Reg) (s : State) : exec (.ldDtVx x) s = .next (s.setDt (s.reg x)) := rfl

theorem exec_ldStVx (x : Reg) (s : State) : exec (.ldStVx x) s = .next (s.setSt (s.reg x)) := rfl

/-- Settles O35: one write of Vx, of DT and of ST, each of the byte moved. -/
theorem timerInstructionsMoveOneByte : Obligations.TimerInstructionsMoveOneByte := fun x s =>
  ⟨next_of_setReg (exec_ldVxDt x s), ⟨_, exec_ldDtVx x s, setDt_dt s (s.reg x), rfl⟩,
    ⟨_, exec_ldStVx x s, setSt_st s (s.reg x), rfl⟩⟩

end Sys2Proof.Machine
end

section
/-! The host's operations on the timers (spec/60_exceptions.md R265): TICK. -/

namespace Sys2Proof.Machine

/-- A timer at zero stays there, which is what the truncated subtraction says. -/
theorem tickTimer_toNat (b : Byte) : (tickTimer b).toNat = b.toNat - 1 := by
  unfold tickTimer
  split
  case isTrue hne => exact BitVec.toNat_sub_of_le (by bv_omega : 0x01#8 ≤ b)
  case isFalse hzero =>
    obtain rfl := not_not.1 hzero
    rfl

/-- TICK as the host's next operation: both timers, from the state without the request. -/
theorem step_tick {s : State} {rest : List HostOp} (hpending : s.pending = .tick :: rest) :
    step s = .next (tick { s with pending := rest }) := step_pending hpending

/-- Settles O36: TICK is one `tickTimer` of DT and one of ST, each from the timer's own old value. -/
theorem tickDecrementsNonzeroTimers : Obligations.TickDecrementsNonzeroTimers := fun s _ hpending =>
  ⟨_, step_tick hpending, tickTimer_toNat s.dt, tickTimer_toNat s.st, rfl⟩

end Sys2Proof.Machine
end

section
/-! The host's LOAD (spec/70_reset_and_hazards.md R293 to R296): what the state it leaves holds, and the length of image it accepts. -/

namespace Sys2Proof.Machine

/-! ### The state LOAD leaves (R293, R294) -/

@[simp] theorem reg_loadState (rom : List Byte) (s : State) (r : Reg) : (loadState rom s).reg r = 0 :=
  Vector.getElem_replicate r.isLt

@[simp] theorem loadState_stack_getElem (rom : List Byte) (s : State) (j : Nat) (h : j < 16) : (loadState rom s).stack[j] = 0 :=
  Vector.getElem_replicate h

/-- The k-th byte of the image is at 0x0200 + k. -/
theorem read_loadState_image (rom : List Byte) (s : State) (k : Nat) (h : k < rom.length) :
    Memory.read (loadState rom s).mem (0x200 + k) = rom[k] := by
  have hin : 0x200 ≤ 0x200 + k ∧ 0x200 + k < 0x200 + rom.length := ⟨Nat.le_add_right _ _, Nat.add_lt_add_left h _⟩
  rw [loadState, Memory.read_writeBytes, dif_pos hin]
  simp only [Nat.add_sub_cancel_left]

/-- A byte below the image or past its end is kept (D25). -/
theorem read_loadState_outside (rom : List Byte) (s : State) (a : Nat) (h : a < 0x200 ∨ 0x200 + rom.length ≤ a) :
    Memory.read (loadState rom s).mem a = Memory.read s.mem a := by
  have hout : ¬ (0x200 ≤ a ∧ a < 0x200 + rom.length) := by omega
  rw [loadState, Memory.read_writeBytes, dif_neg hout]

/-! ### LOAD as the host's next operation (R293, R295) -/

theorem step_load {s : State} {rom : List Byte} {rest : List HostOp} (hpending : s.pending = .load rom :: rest)
    (hfits : rom.length ≤ maxImage) : step s = .next (loadState rom { s with pending := rest }) := by
  rw [step_pending hpending]
  exact if_neg hfits.not_gt

theorem step_load_tooLong {s : State} {rom : List Byte} {rest : List HostOp} (hpending : s.pending = .load rom :: rest)
    (hlong : rom.length > maxImage) : step s = .refused .imageTooLong := by
  rw [step_pending hpending]
  exact if_pos hlong

/-- Settles O51: an image that fits leaves `loadState`, from the state without the request; a longer one is refused. -/
theorem loadResetsAndCopiesImage : Obligations.LoadResetsAndCopiesImage := by
  intro rom s rest hpending
  constructor
  · intro hfits
    exact ⟨_, step_load hpending hfits, reg_loadState rom _, rfl, rfl, rfl, rfl, loadState_stack_getElem rom _, rfl,
      read_loadState_image rom _, read_loadState_outside rom _, rfl, rfl⟩
  · exact step_load_tooLong hpending

end Sys2Proof.Machine
end

section
/-! Encoding and decoding are inverse to each other (spec/30_encoding.md R71, R72, R78): the fields of each format are the operands it was
made from, a word is made from its own fields, and the rejected words of each group are those no row of the group takes. -/

namespace Sys2Proof

/-! ### The fields of a format are its operands (R71, R72) -/

@[simp] theorem fieldOp_formatA {op : Nat} (h : op < 16) (nnn : Nnn) : (fieldOp (formatA op nnn)).toNat = op := by
  rw [fieldOp_toNat, formatA_toNat h]
  omega

@[simp] theorem fieldNnn_formatA {op : Nat} (h : op < 16) (nnn : Nnn) : fieldNnn (formatA op nnn) = nnn := by
  apply BitVec.eq_of_toNat_eq
  rw [fieldNnn_toNat, formatA_toNat h]
  omega

@[simp] theorem fieldOp_formatXK {op : Nat} (h : op < 16) (x : Reg) (kk : Byte) : (fieldOp (formatXK op x kk)).toNat = op := by
  rw [fieldOp_toNat, formatXK_toNat h]
  omega

@[simp] theorem fieldX_formatXK {op : Nat} (h : op < 16) (x : Reg) (kk : Byte) : fieldX (formatXK op x kk) = x := by
  apply Fin.ext
  rw [fieldX_val, formatXK_toNat h]
  omega

@[simp] theorem fieldKk_formatXK {op : Nat} (h : op < 16) (x : Reg) (kk : Byte) : fieldKk (formatXK op x kk) = kk := by
  apply BitVec.eq_of_toNat_eq
  rw [fieldKk_toNat, formatXK_toNat h]
  omega

@[simp] theorem fieldOp_formatXY {op n : Nat} (h : op < 16) (hn : n < 16) (x y : Reg) :
    (fieldOp (formatXY op x y n)).toNat = op := by
  rw [fieldOp_toNat, formatXY_toNat h hn]
  omega

@[simp] theorem fieldX_formatXY {op n : Nat} (h : op < 16) (hn : n < 16) (x y : Reg) : fieldX (formatXY op x y n) = x := by
  apply Fin.ext
  rw [fieldX_val, formatXY_toNat h hn]
  omega

@[simp] theorem fieldY_formatXY {op n : Nat} (h : op < 16) (hn : n < 16) (x y : Reg) : fieldY (formatXY op x y n) = y := by
  apply Fin.ext
  rw [fieldY_val, formatXY_toNat h hn]
  omega

@[simp] theorem fieldN_formatXY {op n : Nat} (h : op < 16) (hn : n < 16) (x y : Reg) :
    (fieldN (formatXY op x y n)).toNat = n := by
  rw [fieldN_toNat, formatXY_toNat h hn]
  omega

/-! ### Decoding what was encoded -/

/-- Settles O6: each word has the major opcode of its format, and the fields it was made from. -/
theorem decodeOfEncode : Obligations.DecodeOfEncode := by
  intro i hwf
  cases i
  case cls | ret => rfl
  case drw x y n =>
    have hn : n < 16 := Nat.lt_succ_of_le (of_decide_eq_true hwf)
    simp [encode, decodeWord, hn]
  case seReg | sneReg => simp [encode, decodeWord, decodeNibbleZero, ← BitVec.toNat_inj]
  case ldReg | orReg | andReg | xorReg | addReg | sub | shr | subn | shl => simp [encode, decodeWord, decodeGroup8]
  case skp | sknp => simp [encode, decodeWord, decodeGroupE]
  case ldVxDt | ldDtVx | ldStVx | addI | ldF | ldB | storeRegs | loadRegs => simp [encode, decodeWord, decodeGroupF]
  all_goals simp [encode, decodeWord]

/-! ### Encoding what was decoded -/

theorem formatA_fields (w : Word) : formatA (fieldOp w).toNat (fieldNnn w) = w := by
  apply BitVec.eq_of_toNat_eq
  rw [formatA_toNat (fieldOp w).isLt, fieldOp_toNat, fieldNnn_toNat]
  omega

theorem formatXK_fields (w : Word) : formatXK (fieldOp w).toNat (fieldX w) (fieldKk w) = w := by
  apply BitVec.eq_of_toNat_eq
  rw [formatXK_toNat (fieldOp w).isLt, fieldOp_toNat, fieldX_val, fieldKk_toNat]
  omega

theorem formatXY_fields (w : Word) : formatXY (fieldOp w).toNat (fieldX w) (fieldY w) (fieldN w).toNat = w := by
  apply BitVec.eq_of_toNat_eq
  rw [formatXY_toNat (fieldOp w).isLt (fieldN w).isLt, fieldOp_toNat, fieldX_val, fieldY_val, fieldN_toNat]
  omega

/-- The decoder's answer is an instruction whose word is `w`. -/
def DecodesBack (w : Word) (d : Except Reject Instr) : Prop := ∀ i, d = .ok i → encode i = w ∧ i.wellFormed = true

@[simp] theorem decodesBack_ok (w : Word) (i : Instr) : DecodesBack w (.ok i) ↔ encode i = w ∧ i.wellFormed = true := by
  simp [DecodesBack]

@[simp] theorem decodesBack_error (w : Word) (e : Reject) : DecodesBack w (.error e) := nofun

theorem decodeGroup0_back (w : Word) : DecodesBack w (decodeGroup0 w) := by
  unfold decodeGroup0
  split_ifs <;> simp_all [encode, Instr.wellFormed]

theorem decodeNibbleZero_back {w : Word} {i : Instr} (h : (fieldN w).toNat = 0 → encode i = w ∧ i.wellFormed = true) :
    DecodesBack w (decodeNibbleZero w i) := by
  unfold decodeNibbleZero
  split_ifs with hn
  · exact (decodesBack_ok w i).2 (h (by rw [hn]; rfl))
  · exact decodesBack_error w _

theorem decodeGroup8_back {w : Word} (hop : (fieldOp w).toNat = 0x8) : DecodesBack w (decodeGroup8 w) := by
  have hw := formatXY_fields w
  rw [hop] at hw
  unfold decodeGroup8
  split <;> simp_all [encode, Instr.wellFormed]

theorem fieldKk_eq {w : Word} {k : Nat} (h : (fieldKk w).toNat = k) : fieldKk w = BitVec.ofNat 8 k := by
  rw [← h, BitVec.ofNat_toNat, BitVec.setWidth_eq]

theorem decodeGroupE_back {w : Word} (hop : (fieldOp w).toNat = 0xE) : DecodesBack w (decodeGroupE w) := by
  have hw := formatXK_fields w
  rw [hop] at hw
  unfold decodeGroupE
  split
  case h_1 hkk | h_2 hkk =>
    rw [fieldKk_eq hkk] at hw
    exact (decodesBack_ok w _).2 ⟨hw, rfl⟩
  case h_3 => exact decodesBack_error w _

theorem decodeGroupF_back {w : Word} (hop : (fieldOp w).toNat = 0xF) : DecodesBack w (decodeGroupF w) := by
  have hw := formatXK_fields w
  rw [hop] at hw
  unfold decodeGroupF
  split
  case h_9 => exact decodesBack_error w _
  all_goals
    rename_i hkk
    rw [fieldKk_eq hkk] at hw
    exact (decodesBack_ok w _).2 ⟨hw, rfl⟩

/-- The word of the instruction a word decodes to is made from the word's own fields. -/
theorem decodeWord_back (w : Word) : DecodesBack w (decodeWord w) := by
  have hA := formatA_fields w
  have hXK := formatXK_fields w
  have hXY := formatXY_fields w
  unfold decodeWord
  split
  case h_1 => exact decodeGroup0_back w
  case h_6 hop | h_10 hop =>
    refine decodeNibbleZero_back fun hn => ⟨?_, rfl⟩
    rwa [hop, hn] at hXY
  case h_9 hop => exact decodeGroup8_back hop
  case h_14 hop =>
    rw [hop] at hXY
    exact (decodesBack_ok w _).2 ⟨hXY, decide_eq_true (Nat.le_of_lt_succ (fieldN w).isLt)⟩
  case h_15 hop => exact decodeGroupE_back hop
  case h_16 hop => exact decodeGroupF_back hop
  case h_17 => exact decodesBack_error w _
  case h_2 hop | h_3 hop | h_11 hop | h_12 hop =>
    rw [hop] at hA
    exact (decodesBack_ok w _).2 ⟨hA, rfl⟩
  case h_4 hop | h_5 hop | h_7 hop | h_8 hop | h_13 hop =>
    rw [hop] at hXK
    exact (decodesBack_ok w _).2 ⟨hXK, rfl⟩

/-- Settles O7: group by group, in `decodeWord_back`. -/
theorem encodeOfDecode : Obligations.EncodeOfDecode := decodeWord_back

/-! ### Rows and rejected words -/

/-- The rows of the table are told apart by their numbers. -/
theorem opcodeTable_num_inj : ∀ r ∈ opcodeTable, ∀ r' ∈ opcodeTable, r.num = r'.num → r = r' := by decide

/-- Settles O5: two rows that take one word both number the row of the one instruction it decodes to (O4). -/
theorem atMostOneRowMatches : Obligations.AtMostOneRowMatches := by
  intro w r r' hr hr' hsel hsel'
  obtain ⟨i, hi, hrow⟩ := (decodeWord_row w r.num).2 ⟨r, hr, rfl, hsel⟩
  obtain ⟨i', hi', hrow'⟩ := (decodeWord_row w r'.num).2 ⟨r', hr', rfl, hsel'⟩
  obtain rfl : i = i' := Except.ok.inj (hi.symm.trans hi')
  exact opcodeTable_num_inj r hr r' hr' (hrow.symm.trans hrow')

/-- The decoder rejects the word. -/
def Rejects (d : Except Reject Instr) : Prop := ∃ e, d = .error e

@[simp] theorem not_rejects_ok (i : Instr) : ¬ Rejects (.ok i) := by simp [Rejects]

@[simp] theorem rejects_error (e : Reject) : Rejects (.error e) := ⟨e, rfl⟩

theorem decodeGroup0_rejects (w : Word) : Rejects (decodeGroup0 w) ↔ w.toNat ≠ 0x00E0 ∧ w.toNat ≠ 0x00EE := by
  unfold decodeGroup0
  split_ifs <;> simp_all [← BitVec.toNat_inj]

theorem decodeNibbleZero_rejects (w : Word) (i : Instr) : Rejects (decodeNibbleZero w i) ↔ (fieldN w).toNat ≠ 0 := by
  unfold decodeNibbleZero
  split_ifs <;> simp_all [← BitVec.toNat_inj]

theorem decodeGroup8_rejects (w : Word) :
    Rejects (decodeGroup8 w) ↔ (fieldN w).toNat ∈ [0x8, 0x9, 0xA, 0xB, 0xC, 0xD, 0xF] := by
  unfold decodeGroup8
  split
  case h_10 =>
    have hlt := (fieldN w).isLt
    simp only [rejects_error, true_iff, List.mem_cons, List.not_mem_nil, or_false, imp_false] at *
    omega
  all_goals
    rename_i hn
    simp [hn]

theorem decodeGroupE_rejects (w : Word) : Rejects (decodeGroupE w) ↔ (fieldKk w).toNat ∉ [0x9E, 0xA1] := by
  unfold decodeGroupE
  split <;> simp_all

theorem decodeGroupF_rejects (w : Word) :
    Rejects (decodeGroupF w) ↔ (fieldKk w).toNat ∉ [0x07, 0x15, 0x18, 0x1E, 0x29, 0x33, 0x55, 0x65] := by
  unfold decodeGroupF
  split <;> simp_all

/-- Settles O8: the major opcode names the group, and each group rejects what no row of it takes. -/
theorem unrecognizedWordsByGroup : Obligations.UnrecognizedWordsByGroup := by
  intro w
  change Rejects (decodeWord w) ↔ _
  simp only [← fieldOp_toNat, ← fieldN_toNat, ← fieldKk_toNat]
  unfold decodeWord
  split
  case h_1 hop => simp [decodeGroup0_rejects, hop]
  case h_6 hop | h_10 hop => simp [decodeNibbleZero_rejects, hop]
  case h_9 hop => simp [decodeGroup8_rejects, hop]
  case h_15 hop => simp [decodeGroupE_rejects, hop]
  case h_16 hop => simp [decodeGroupF_rejects, hop]
  case h_17 =>
    exfalso
    have hlt := (fieldOp w).isLt
    simp only [imp_false] at *
    omega
  all_goals
    rename_i hop
    simp [hop]

/-- Settles O9: the decoder evaluated at each word. -/
theorem sampleWordsDecode : Obligations.SampleWordsDecode := by
  refine ⟨?_, ?_, ?_, ?_, ?_, ?_, ?_, ?_, ?_, ?_, ?_, ?_, ?_, ?_, ?_⟩ <;> rfl

end Sys2Proof
end

section
/-! The sprite loop of DRW (spec/43_display_input.md R202, R203). A draw names each pixel at most once, so each pixel is found as it was
before the draw: what the loop leaves in the display, in the collision flag and in the calls is said pixel by pixel of the old display. -/

namespace Sys2Proof.Machine

theorem exec_drw (x y : Reg) (n : Nat) (s : State) : exec (.drw x y n) s =
    .next ((drawSprite x y n s).2.setReg vf (flagByte (drawSprite x y n s).1)) := rfl

/-! ### The loop over distinct pixels -/

/-- The calls of one 1-bit on screen: get, then clear or set by what was found (D21). -/
def touchCalls (d : Display) (p : Pixel) : List PortCall := [.getPixel p, if pixelLit d p then .clearPixel p else .setPixel p]

theorem touchPixel_fst (acc : Bool × State) (p : Pixel) : (touchPixel acc p).1 = (acc.1 || pixelLit acc.2.display p) := by
  cases hlit : pixelLit acc.2.display p
  · rw [touchPixel_of_dark hlit, Bool.or_false]
  · rw [touchPixel_of_lit hlit, Bool.or_true]

theorem touchPixel_calls (acc : Bool × State) (p : Pixel) :
    (touchPixel acc p).2.calls = acc.2.calls ++ touchCalls acc.2.display p := by
  cases hlit : pixelLit acc.2.display p
  · rw [touchPixel_of_dark hlit]
    simp [dispSet, touchCalls, hlit]
  · rw [touchPixel_of_lit hlit]
    simp [dispClear, touchCalls, hlit]

/-- Drawing a pixel leaves every other pixel as it was found. -/
theorem pixelLit_touchPixel_of_ne (acc : Bool × State) {p q : Pixel} (h : q ≠ p) :
    pixelLit (touchPixel acc p).2.display q = pixelLit acc.2.display q := by
  rw [pixelLit_touchPixel, decide_eq_false h, Bool.xor_false]

/-- The loop complements exactly the pixels it names. -/
theorem pixelLit_foldl_touchPixel {ps : List Pixel} (hps : ps.Nodup) (q : Pixel) : ∀ acc : Bool × State,
    pixelLit (ps.foldl touchPixel acc).2.display q = (pixelLit acc.2.display q ^^ decide (q ∈ ps)) := by
  induction ps with
  | nil => intro acc; simp
  | cons p ps ih =>
    intro acc
    obtain ⟨hp, hps⟩ := List.nodup_cons.1 hps
    rw [List.foldl_cons, ih hps, pixelLit_touchPixel]
    by_cases hq : q = p
    · subst hq; simp [hp]
    · simp [hq]

/-- The loop collides exactly when one of its pixels was lit before it. -/
theorem foldl_touchPixel_fst {ps : List Pixel} (hps : ps.Nodup) : ∀ acc : Bool × State,
    (ps.foldl touchPixel acc).1 = (acc.1 || ps.any (pixelLit acc.2.display)) := by
  induction ps with
  | nil => intro acc; simp
  | cons p ps ih =>
    intro acc
    obtain ⟨hp, hps⟩ := List.nodup_cons.1 hps
    have hrest : ps.any (pixelLit (touchPixel acc p).2.display) = ps.any (pixelLit acc.2.display) := by
      rw [Bool.eq_iff_iff, List.any_eq_true, List.any_eq_true]
      exact exists_congr fun q => and_congr_right fun hq => by
        rw [pixelLit_touchPixel_of_ne acc (ne_of_mem_of_not_mem hq hp)]
    rw [List.foldl_cons, ih hps, hrest, touchPixel_fst, List.any_cons, Bool.or_assoc]

/-- The loop makes the calls of its pixels in order, each by the display before the loop. -/
theorem foldl_touchPixel_calls {ps : List Pixel} (hps : ps.Nodup) : ∀ acc : Bool × State,
    (ps.foldl touchPixel acc).2.calls = acc.2.calls ++ ps.flatMap (touchCalls acc.2.display) := by
  induction ps with
  | nil => intro acc; simp
  | cons p ps ih =>
    intro acc
    obtain ⟨hp, hps⟩ := List.nodup_cons.1 hps
    have hrest : ps.flatMap (touchCalls (touchPixel acc p).2.display) = ps.flatMap (touchCalls acc.2.display) :=
      List.flatMap_congr fun q hq => by
        rw [touchCalls, pixelLit_touchPixel_of_ne acc (ne_of_mem_of_not_mem hq hp), touchCalls]
    rw [List.foldl_cons, ih hps, hrest, touchPixel_calls, List.flatMap_cons, List.append_assoc]

/-! ### The sprite -/

/-- The on-screen 1-bits of the sprite DRW draws, in the order of its loop. -/
def drawnPixels (x y : Reg) (n : Nat) (s : State) : List Pixel := spritePixels s (spriteColumn x s) (spriteRow y s) n

theorem mem_drawnPixels {x y : Reg} {n : Nat} {s : State} {p : Pixel} : p ∈ drawnPixels x y n s ↔
    ∃ r c : Nat, r < n ∧ c < 8 ∧ (memRead s (s.i.toNat + r)).getLsbD (7 - c) = true ∧
      p.1.val = (s.reg x).toNat % 64 + c ∧ p.2.val = (s.reg y).toNat % 32 + r := by
  simp only [drawnPixels, mem_spritePixels, spriteBit, indexAddr, spriteColumn, spriteRow, exists_and_left]

theorem pixelLit_drawSprite (x y : Reg) (n : Nat) (s : State) (q : Pixel) :
    pixelLit (drawSprite x y n s).2.display q = (pixelLit s.display q ^^ decide (q ∈ drawnPixels x y n s)) :=
  pixelLit_foldl_touchPixel (spritePixels_nodup ..) q (false, s)

theorem drawSprite_fst (x y : Reg) (n : Nat) (s : State) :
    (drawSprite x y n s).1 = (drawnPixels x y n s).any (pixelLit s.display) := by
  rw [drawSprite, foldl_touchPixel_fst (spritePixels_nodup ..), Bool.false_or, drawnPixels]

theorem drawSprite_calls (x y : Reg) (n : Nat) (s : State) :
    (drawSprite x y n s).2.calls = s.calls ++ (drawnPixels x y n s).flatMap (touchCalls s.display) :=
  foldl_touchPixel_calls (spritePixels_nodup ..) (false, s)

theorem reg_drawSprite (x y : Reg) (n : Nat) (s : State) (r : Reg) : (drawSprite x y n s).2.reg r = s.reg r := by
  rw [drawSprite_snd]
  rfl

/-- Settles O31: S is the set of the loop's pixels, and each of the loop's effects is known pixel by pixel. -/
theorem drwTogglesSpriteAndReportsCollision : Obligations.DrwTogglesSpriteAndReportsCollision := by
  intro x y n s S hS
  have hmem : ∀ p, p ∈ drawnPixels x y n s ↔ S p := fun p => mem_drawnPixels.trans (hS p).symm
  have hframe := exec_frame (exec_drw x y n s)
  refine ⟨_, exec_drw x y n s, fun p hp => ?_, fun p hp => ?_, ?_, fun hdark => ?_, fun r hr => ?_, hframe⟩
  · rw [setReg_display, pixelLit_drawSprite, decide_eq_true ((hmem p).2 hp), Bool.xor_true]
  · rw [setReg_display, pixelLit_drawSprite, decide_eq_false (mt (hmem p).1 hp), Bool.xor_false]
  · rintro ⟨p, hp, hlit⟩
    have hhit : (drawSprite x y n s).1 = true := by
      rw [drawSprite_fst]
      exact List.any_eq_true.2 ⟨p, (hmem p).2 hp, hlit⟩
    rw [reg_setReg_self, hhit]
    rfl
  · have hmiss : (drawSprite x y n s).1 = false := by
      rw [drawSprite_fst]
      exact List.any_eq_false.2 fun p hp => Bool.not_eq_true _ ▸ hdark p ((hmem p).1 hp)
    rw [reg_setReg_self, hmiss]
    rfl
  · rw [reg_setReg_of_ne _ _ _ r hr, reg_drawSprite]

/-- Settles O32: O31 at both draws. The first keeps I, memory and the coordinates, so S is the same set at the second, which finds
each pixel of S complemented. -/
theorem drawingTwiceRestoresTheDisplay : Obligations.DrawingTwiceRestoresTheDisplay := by
  intro x y n s t S hx hy hS hexec
  obtain ⟨t', hexec', htoggled, hkept, -, -, hregs, hframe⟩ := drwTogglesSpriteAndReportsCollision x y n s S hS
  obtain rfl : t' = t := Host.Outcome.next.inj (hexec'.symm.trans hexec)
  have hi : t'.i = s.i := by rw [hframe]
  have hread : ∀ a, memRead t' a = memRead s a := fun a => by rw [hframe]; rfl
  rw [← hregs x hx, ← hregs y hy, ← hi] at hS
  simp only [← hread] at hS
  obtain ⟨u, hexec₂, htoggled₂, hkept₂, hhit, hmiss, -, -⟩ := drwTogglesSpriteAndReportsCollision x y n t' S hS
  refine ⟨u, hexec₂, display_ext fun p => ?_, fun hvf => ?_, fun ⟨p, hp, hdark⟩ => ?_⟩
  · by_cases hp : S p
    · rw [htoggled₂ p hp, htoggled p hp, Bool.not_not]
    · rw [hkept₂ p hp, hkept p hp]
  · by_contra hnone
    have hlit : ∀ p, S p → pixelLit s.display p = true := fun p hp => by
      by_contra hdark
      exact hnone ⟨p, hp, Bool.eq_false_of_not_eq_true hdark⟩
    have hzero := hmiss fun p hp => by rw [htoggled p hp, hlit p hp]; rfl
    exact absurd (hvf.symm.trans hzero) (by decide)
  · exact hhit ⟨p, hp, by rw [htoggled p hp, hdark]; rfl⟩

/-- Settles O33: the calls of the loop's pixels, which `flatMap_spriteRowPixels` takes apart by row and column. -/
theorem drwCallsRowByRow : Obligations.DrwCallsRowByRow := by
  intro x y n s
  refine ⟨_, exec_drw x y n s, ?_⟩
  rw [setReg_calls, drawSprite_calls, drawnPixels, spritePixels, List.flatMap_assoc]
  simp only [flatMap_spriteRowPixels]
  rfl

end Sys2Proof.Machine
end

section
/-! Who may change what: for each part of the state, the instructions that leave it as it was, read off `exec_frame`; SP and the V
registers, which a frame does not settle, off the equations of the instructions. -/

namespace Sys2Proof.Machine

/-- Every arm of `exec` answers a next state. -/
theorem exec_completes (i : Instr) (s : State) : ∃ t, exec i s = .next t := by
  cases i <;> exact ⟨_, rfl⟩

theorem executeWord_completes (w : Word) (s : State) : ∃ t, executeWord w s = .next t := by
  obtain ⟨i, -, hexec⟩ | ⟨e, -, hexec⟩ := executeWord_cases w s
  · rw [hexec]
    exact exec_completes i s
  · exact ⟨_, hexec⟩

/-- Settles O44: the instructions by `exec_completes`, and a STEP because the fetched word is an instruction or is reported. -/
theorem nothingStopsTheCore : Obligations.NothingStopsTheCore := by
  refine ⟨exec_completes, fun s hrunning => ?_⟩
  rw [step_running hrunning]
  exact executeWord_completes _ _

section
variable {i : Instr} {s t : State} (hexec : exec i s = .next t)
include hexec

/-! ### Fields read off the frame -/

theorem exec_dt (hi : ∀ x, i ≠ .ldDtVx x) : t.dt = s.dt := by
  have hframe := exec_frame hexec
  cases i
  case ldDtVx x => exact absurd rfl (hi x)
  all_goals exact (congrArg State.dt hframe :)

theorem exec_st (hi : ∀ x, i ≠ .ldStVx x) : t.st = s.st := by
  have hframe := exec_frame hexec
  cases i
  case ldStVx x => exact absurd rfl (hi x)
  all_goals exact (congrArg State.st hframe :)

theorem exec_stack (hi : ∀ nnn, i ≠ .call nnn) : t.stack = s.stack := by
  have hframe := exec_frame hexec
  cases i
  case call nnn => exact absurd rfl (hi nnn)
  all_goals exact (congrArg State.stack hframe :)

theorem exec_i (hldI : ∀ nnn, i ≠ .ldI nnn) (haddI : ∀ x, i ≠ .addI x) (hldF : ∀ x, i ≠ .ldF x) : t.i = s.i := by
  have hframe := exec_frame hexec
  cases i
  case ldI nnn => exact absurd rfl (hldI nnn)
  case addI x => exact absurd rfl (haddI x)
  case ldF x => exact absurd rfl (hldF x)
  all_goals exact (congrArg State.i hframe :)

theorem exec_mem (hldB : ∀ x, i ≠ .ldB x) (hstore : ∀ x, i ≠ .storeRegs x) : t.mem = s.mem := by
  have hframe := exec_frame hexec
  cases i
  case ldB x => exact absurd rfl (hldB x)
  case storeRegs x => exact absurd rfl (hstore x)
  all_goals exact (congrArg State.mem hframe :)

theorem exec_display (hcls : i ≠ .cls) (hdrw : ∀ x y n, i ≠ .drw x y n) : t.display = s.display := by
  have hframe := exec_frame hexec
  cases i
  case cls => exact absurd rfl hcls
  case drw x y n => exact absurd rfl (hdrw x y n)
  all_goals exact (congrArg State.display hframe :)

/-- No frame names the host's settings, nor the model's own request list and fetched word. -/
theorem exec_settings : t.shiftQuirk = s.shiftQuirk ∧ t.ipf = s.ipf ∧ t.loaded = s.loaded ∧ t.pending = s.pending ∧
    t.fetched = s.fetched := by
  have hframe := exec_frame hexec
  cases i
  all_goals exact ⟨(congrArg State.shiftQuirk hframe :), (congrArg State.ipf hframe :), (congrArg State.loaded hframe :),
    (congrArg State.pending hframe :), (congrArg State.fetched hframe :)⟩

/-! ### SP and the V registers -/

/-- CALL with room on the stack moves SP up by one, RET from an occupied stack down by one, and nothing else moves it. -/
theorem exec_sp_cases :
    t.sp = s.sp ∨ (∃ nnn, i = .call nnn ∧ t.sp.val = s.sp.val + 1) ∨ (i = .ret ∧ t.sp.val + 1 = s.sp.val) := by
  have hframe := exec_frame hexec
  cases i
  case call nnn =>
    by_cases hroom : s.sp.val < 16
    · obtain rfl := Host.Outcome.next.inj ((exec_call_of_lt nnn hroom).symm.trans hexec)
      exact .inr (.inl ⟨nnn, rfl, rfl⟩)
    · obtain rfl := Host.Outcome.next.inj ((exec_call_of_full nnn hroom).symm.trans hexec)
      exact .inl rfl
  case ret =>
    by_cases hempty : s.sp.val = 0
    · obtain rfl := Host.Outcome.next.inj ((exec_ret_of_empty hempty).symm.trans hexec)
      exact .inl rfl
    · obtain rfl := Host.Outcome.next.inj ((exec_ret_of_pos hempty).symm.trans hexec)
      exact .inr (.inr ⟨rfl, Nat.succ_pred_eq_of_ne_zero hempty⟩)
  all_goals exact .inl (congrArg State.sp hframe :)

/-- A register outside the instruction's row of R23 keeps its value. -/
theorem exec_reg_of_not_mem {r : Reg} (hr : r ∉ regsWritten i) : t.reg r = s.reg r := by
  have hframe := exec_frame hexec
  cases i <;> simp only [regsWritten, List.mem_cons, List.not_mem_nil, or_false, not_or, mem_regsUpTo] at hr
  case ldImm | addImm | ldReg | orReg | andReg | xorReg | ldVxDt =>
    cases hexec
    exact reg_setReg_of_ne s _ _ r hr
  case addReg | sub | shr | subn | shl =>
    cases hexec
    rw [reg_writeFlagAndResult, if_neg hr.1, if_neg hr.2]
  case rnd x kk =>
    cases hexec
    exact reg_setReg_of_ne (randByte s).2 _ _ r hr
  case drw x y n =>
    cases hexec
    rw [reg_setReg_of_ne _ _ _ r hr, reg_drawSprite]
  case loadRegs x =>
    cases hexec
    rw [reg_foldl_loadReg, if_neg fun hmem => hr ((mem_regsUpTo x r).1 hmem)]
  all_goals exact (congrArg (State.reg · r) hframe :)

end

/-- Settles O37: each timer is in the frame of its own load only. -/
theorem onlyTimerLoadsChangeTimers : Obligations.OnlyTimerLoadsChangeTimers := by
  intro i s t hexec
  constructor
  · intro hne
    by_contra hi
    exact hne (exec_dt hexec (not_exists.1 hi))
  · intro hne
    by_contra hi
    exact hne (exec_st hexec (not_exists.1 hi))

/-- Settles O39: contrapositive of `exec_reg_of_not_mem`. -/
theorem onlyListedRegistersChange : Obligations.OnlyListedRegistersChange := by
  intro i s t r hexec hne
  by_contra hr
  exact hne (exec_reg_of_not_mem hexec hr)

/-- Settles O40: the stack is in the frame of CALL only, and `exec_sp_cases` says who moves SP. -/
theorem onlyCallAndRetMoveSp : Obligations.OnlyCallAndRetMoveSp := by
  intro i s t hexec
  constructor
  · intro hne
    by_contra hi
    exact hne (exec_stack hexec (not_exists.1 hi))
  · exact (exec_sp_cases hexec).resolve_left

/-- Settles O41: I is in the frame of the three index instructions only. -/
theorem onlyIndexInstructionsChangeI : Obligations.OnlyIndexInstructionsChangeI := by
  intro i s t hexec hne
  by_contra hi
  obtain ⟨hldI, hother⟩ := not_or.1 hi
  exact hne (exec_i hexec (not_exists.1 hldI) (fun x hx => hother ⟨x, .inl hx⟩) fun x hx => hother ⟨x, .inr hx⟩)

/-- Settles O42: memory is in the frame of the two stores only, the display in that of CLS and DRW only, the settings in none. -/
theorem onlyStoresAndDrawsReachMemoryAndDisplay : Obligations.OnlyStoresAndDrawsReachMemoryAndDisplay := by
  intro i s t hexec
  refine ⟨fun hne => ?_, fun hne => ?_, exec_settings hexec⟩
  · by_contra hi
    exact hne (exec_mem hexec (fun x hx => hi ⟨x, .inl hx⟩) fun x hx => hi ⟨x, .inr hx⟩)
  · by_contra hi
    obtain ⟨hcls, hdrw⟩ := not_or.1 hi
    exact hne (exec_display hexec hcls fun x y n hx => hdrw ⟨x, y, n, hx⟩)

end Sys2Proof.Machine
end

section
/-! What no instruction reads. ST, the log and the host's requests are read by none, the shift quirk by SHR and SHL only, and the stack
below SP only: from a state with other values there, an instruction takes the same step, writes the same ST and appends the same events. -/

namespace Sys2Proof.Machine

/-- The events an instruction appends to the log. -/
def execReports (i : Instr) (s : State) : List Diagnostic :=
  match i with
  | .seImm x kk => if s.reg x = kk then skipReports s.pc else []
  | .sneImm x kk => if s.reg x ≠ kk then skipReports s.pc else []
  | .seReg x y => if s.reg x = s.reg y then skipReports s.pc else []
  | .sneReg x y => if s.reg x ≠ s.reg y then skipReports s.pc else []
  | .skp x => if (keySample s).getLsbD (keyIndex x s) then skipReports s.pc else []
  | .sknp x => if !(keySample s).getLsbD (keyIndex x s) then skipReports s.pc else []
  | .call nnn => if s.sp.val < 16 then [] else [.stackOverflow s.pc nnn]
  | .ret => if s.sp.val = 0 then [.stackUnderflow s.pc] else []
  | _ => []

/-- The sound timer an instruction leaves where it was `b`. -/
def execSt (i : Instr) (s : State) (b : Byte) : Byte :=
  match i with
  | .ldStVx x => s.reg x
  | _ => b

/-- The stack an instruction leaves where it was `k`. -/
def execStack (i : Instr) (s : State) (k : Vector Word 16) : Vector Word 16 :=
  match i with
  | .call _ => if h : s.sp.val < 16 then k.set s.sp.val s.pc else k
  | _ => k

/-- A state with other values of the sound timer, the quirk, the log, the stack and the host's requests. -/
def State.withUnread (s : State) (b : Byte) (q : Bool) (l : List Diagnostic) (k : Vector Word 16) (p : List HostOp) : State :=
  { s with st := b, shiftQuirk := q, log := l, stack := k, pending := p }

section
variable (b : Byte) (q : Bool) (l : List Diagnostic) (k : Vector Word 16) (p : List HostOp)

theorem skip_withUnread (s : State) :
    skip (s.withUnread b q l k p) = (skip s).withUnread b q (l ++ skipReports s.pc) k p := by
  rw [skip_eq, skip_eq]
  rfl

theorem ite_skip_withUnread (c : Prop) [Decidable c] (s : State) :
    (if c then skip (s.withUnread b q l k p) else s.withUnread b q l k p) =
      (if c then skip s else s).withUnread b q (l ++ if c then skipReports s.pc else []) k p := by
  split
  · exact skip_withUnread b q l k p s
  · rw [List.append_nil]

theorem touchPixel_withUnread (acc : Bool × State) (px : Pixel) :
    touchPixel (acc.1, acc.2.withUnread b q l k p) px =
      ((touchPixel acc px).1, (touchPixel acc px).2.withUnread b q l k p) := by
  cases hlit : pixelLit acc.2.display px
  · rw [touchPixel_of_dark hlit, touchPixel_of_dark (acc := (acc.1, acc.2.withUnread b q l k p)) hlit]
    rfl
  · rw [touchPixel_of_lit hlit, touchPixel_of_lit (acc := (acc.1, acc.2.withUnread b q l k p)) hlit]
    rfl

theorem drawSprite_withUnread (x y : Reg) (n : Nat) (s : State) : drawSprite x y n (s.withUnread b q l k p) =
    ((drawSprite x y n s).1, (drawSprite x y n s).2.withUnread b q l k p) :=
  List.foldl_hom (fun acc : Bool × State => (acc.1, acc.2.withUnread b q l k p)) (init := (false, s))
    (l := spritePixels s (spriteColumn x s) (spriteRow y s) n) (touchPixel_withUnread b q l k p)

theorem foldl_storeReg_withUnread (ks : List Reg) (s : State) :
    ks.foldl storeReg (s.withUnread b q l k p) = (ks.foldl storeReg s).withUnread b q l k p :=
  List.foldl_hom (State.withUnread · b q l k p) fun _ _ => rfl

theorem foldl_loadReg_withUnread (ks : List Reg) (s : State) :
    ks.foldl loadReg (s.withUnread b q l k p) = (ks.foldl loadReg s).withUnread b q l k p :=
  List.foldl_hom (State.withUnread · b q l k p) fun _ _ => rfl

/-- The one case analysis: an instruction other than a shift takes the same step whatever the five fields hold, as long as the stack
agrees below SP; a shift does so with the same quirk. -/
theorem exec_withUnread {i : Instr} {s t : State} (hexec : exec i s = .next t)
    (hquirk : (∀ x y, i ≠ .shr x y ∧ i ≠ .shl x y) ∨ q = s.shiftQuirk)
    (hstack : ∀ j (h : j < 16), j < s.sp.val → k[j] = s.stack[j]) :
    exec i (s.withUnread b q l k p) =
      .next (t.withUnread (execSt i s b) q (l ++ execReports i s) (execStack i s k) p) := by
  cases i
  case seImm | sneImm | seReg | sneReg =>
    cases hexec
    exact congrArg _ (ite_skip_withUnread b q l k p _ s)
  case skp x =>
    cases (exec_skp x s).symm.trans hexec
    exact congrArg _ (ite_skip_withUnread b q l k p _ (keyPressed (keyIndex x s) s).2)
  case sknp x =>
    cases (exec_sknp x s).symm.trans hexec
    exact (exec_sknp x _).trans (congrArg _ (ite_skip_withUnread b q l k p _ (keyPressed (keyIndex x s) s).2))
  case call nnn =>
    by_cases hroom : s.sp.val < 16
    · cases (exec_call_of_lt nnn hroom).symm.trans hexec
      rw [exec_call_of_lt nnn (s := s.withUnread b q l k p) hroom]
      simp only [execReports, if_pos hroom, execStack, dif_pos hroom, List.append_nil]
      rfl
    · cases (exec_call_of_full nnn hroom).symm.trans hexec
      rw [exec_call_of_full nnn (s := s.withUnread b q l k p) hroom]
      simp only [execReports, if_neg hroom, execStack, dif_neg hroom]
      rfl
  case ret =>
    by_cases hempty : s.sp.val = 0
    · cases (exec_ret_of_empty hempty).symm.trans hexec
      rw [exec_ret_of_empty (s := s.withUnread b q l k p) hempty]
      simp only [execReports, if_pos hempty]
      rfl
    · cases (exec_ret_of_pos hempty).symm.trans hexec
      have hpop := hstack (s.sp.val - 1) (by omega) (by omega)
      rw [exec_ret_of_pos (s := s.withUnread b q l k p) hempty]
      simp only [execReports, if_neg hempty, List.append_nil, State.withUnread, hpop]
      rfl
  case shr x y | shl x y =>
    cases hexec
    obtain rfl : q = s.shiftQuirk := hquirk.resolve_left fun hno => by simpa using hno x y
    simp only [execReports, List.append_nil]
    rfl
  case drw x y n =>
    cases hexec
    rw [exec_drw, drawSprite_withUnread]
    simp only [execReports, List.append_nil]
    rfl
  case storeRegs x =>
    cases hexec
    rw [exec_storeRegs, foldl_storeReg_withUnread]
    simp only [execReports, List.append_nil]
    rfl
  case loadRegs x =>
    cases hexec
    rw [exec_loadRegs, foldl_loadReg_withUnread]
    simp only [execReports, List.append_nil]
    rfl
  all_goals
    cases hexec
    simp only [execReports, List.append_nil]
    rfl

end

/-- The next state, in the five fields, from their own old values. -/
theorem exec_unread {i : Instr} {s t : State} (hexec : exec i s = .next t) :
    t.st = execSt i s s.st ∧ t.shiftQuirk = s.shiftQuirk ∧ t.log = s.log ++ execReports i s ∧ t.stack = execStack i s s.stack ∧
      t.pending = s.pending := by
  have hsame := exec_withUnread s.st s.shiftQuirk s.log s.stack s.pending hexec (.inr rfl) fun _ _ _ => rfl
  have hnext := Host.Outcome.next.inj (hexec.symm.trans hsame)
  exact ⟨(congrArg State.st hnext :), (congrArg State.shiftQuirk hnext :), (congrArg State.log hnext :),
    (congrArg State.stack hnext :), (congrArg State.pending hnext :)⟩

/-! ### One field at a time -/

section
variable {i : Instr} {s t : State} (hexec : exec i s = .next t)
include hexec

theorem exec_with_st (b : Byte) : exec i { s with st := b } = .next { t with st := execSt i s b } := by
  obtain ⟨-, hquirk, hlog, hstack, hpending⟩ := exec_unread hexec
  refine (exec_withUnread b s.shiftQuirk s.log s.stack s.pending hexec (.inr rfl) fun _ _ _ => rfl).trans ?_
  rw [← hquirk, ← hlog, ← hstack, ← hpending]
  rfl

theorem exec_with_quirk (q : Bool) (hi : ∀ x y, i ≠ .shr x y ∧ i ≠ .shl x y) :
    exec i { s with shiftQuirk := q } = .next { t with shiftQuirk := q } := by
  obtain ⟨hst, -, hlog, hstack, hpending⟩ := exec_unread hexec
  refine (exec_withUnread s.st q s.log s.stack s.pending hexec (.inl hi) fun _ _ _ => rfl).trans ?_
  rw [← hst, ← hlog, ← hstack, ← hpending]
  rfl

theorem exec_with_log (l : List Diagnostic) : exec i { s with log := l } = .next { t with log := l ++ execReports i s } := by
  obtain ⟨hst, hquirk, -, hstack, hpending⟩ := exec_unread hexec
  refine (exec_withUnread s.st s.shiftQuirk l s.stack s.pending hexec (.inr rfl) fun _ _ _ => rfl).trans ?_
  rw [← hst, ← hquirk, ← hstack, ← hpending]
  rfl

theorem exec_with_stack (k : Vector Word 16) (hagree : ∀ j (h : j < 16), j < s.sp.val → k[j] = s.stack[j]) :
    exec i { s with stack := k } = .next { t with stack := execStack i s k } := by
  obtain ⟨hst, hquirk, hlog, -, hpending⟩ := exec_unread hexec
  refine (exec_withUnread s.st s.shiftQuirk s.log k s.pending hexec (.inr rfl) hagree).trans ?_
  rw [← hst, ← hquirk, ← hlog, ← hpending]
  rfl

theorem exec_with_pending (p : List HostOp) : exec i { s with pending := p } = .next { t with pending := p } := by
  obtain ⟨hst, hquirk, hlog, hstack, -⟩ := exec_unread hexec
  refine (exec_withUnread s.st s.shiftQuirk s.log s.stack p hexec (.inr rfl) fun _ _ _ => rfl).trans ?_
  rw [← hst, ← hquirk, ← hlog, ← hstack]
  rfl

end

theorem execSt_of_ne {i : Instr} (hi : ∀ x, i ≠ .ldStVx x) (s : State) (b : Byte) : execSt i s b = b := by
  cases i
  case ldStVx x => exact absurd rfl (hi x)
  all_goals rfl

/-- Settles O38: `exec_with_st`, and LD ST alone writes ST. -/
theorem noInstructionReadsSt : Obligations.NoInstructionReadsSt := by
  intro i s t b hexec
  rw [exec_with_st hexec b]
  split_ifs with hi
  · obtain ⟨x, rfl⟩ := hi
    rw [(exec_unread hexec).1]
    rfl
  · rw [execSt_of_ne (not_exists.1 hi)]

/-- Settles O43: `exec_with_quirk`. -/
theorem quirkReachesOnlyShifts : Obligations.QuirkReachesOnlyShifts := fun _ _ _ q hi hexec => exec_with_quirk hexec q hi

/-- Settles O47: the appended events are `execReports`, which do not depend on the log. -/
theorem diagnosticsAreInvisible : Obligations.DiagnosticsAreInvisible := by
  intro i s t l hexec
  obtain ⟨-, -, hlog, -, -⟩ := exec_unread hexec
  exact ⟨execReports i s, hlog, exec_with_log hexec l⟩

end Sys2Proof.Machine
end

section
/-! The host's operations (spec/60_exceptions.md R250), one equation or inversion lemma each: what an operation answers, and when it is
refused (R295, R297). -/

namespace Sys2Proof.Machine

/-! ### One operation -/

/-- A step is one operation: the host's next one, or STEP where it asks for none (log 8). -/
theorem step_eq_hostOp (s : State) : step s = hostOp (s.pending.headD .step) { s with pending := s.pending.tail } := by
  cases hpending : s.pending with
  | nil =>
    have hself : { s with pending := [] } = s := by rw [← hpending]
    rw [step, nextOp, hpending, List.headD_nil, List.tail_nil, hself]
    rfl
  | cons op rest => exact step_pending hpending

theorem step_of_pending_nil {s : State} (hpending : s.pending = []) : step s = stepOp s := by
  rw [step, nextOp, hpending]

theorem stepOp_next {s t : State} (h : stepOp s = .next t) :
    s.loaded = true ∧ executeWord (fetchWord s) (fetchState s) = .next t := afterLoad_next h

theorem fetchOp_next {s t : State} (h : fetchOp s = .next t) :
    s.loaded = true ∧ t = { fetchState s with fetched := some (fetchWord s) } := by
  obtain ⟨hloaded, hnext⟩ := afterLoad_next h
  exact ⟨hloaded, (Host.Outcome.next.inj hnext).symm⟩

theorem executeOp_next {w : Word} {s t : State} (h : executeOp w s = .next t) : s.loaded = true ∧ executeWord w s = .next t :=
  afterLoad_next h

theorem loadOp_next {rom : List Byte} {s t : State} (h : loadOp rom s = .next t) : rom.length ≤ maxImage ∧ t = loadState rom s := by
  unfold loadOp at h
  split at h
  case isTrue => cases h
  case isFalse hfits => exact ⟨Nat.le_of_not_gt hfits, (Host.Outcome.next.inj h).symm⟩

/-! ### EXECUTE, FETCH and the configuration -/

/-- Settles O60: the request alone is consumed, and the word's instruction runs. -/
theorem executeRunsTheDecodedInstruction : Obligations.ExecuteRunsTheDecodedInstruction := by
  intro s w i rest hloaded hpending hdecode
  rw [step_execute hloaded hpending, executeWord_ok hdecode]

/-- FETCH as the host's next operation, in one equation. -/
theorem step_fetch {s : State} {rest : List HostOp} (hloaded : s.loaded = true) (hpending : s.pending = .fetch :: rest) :
    step s = .next { s with pc := s.pc + 2#16, log := s.log ++ fetchReports s.pc, fetched := some (fetchWord s), pending := rest } := by
  rw [step_pending hpending]
  refine (fetchOp_eq (s := { s with pending := rest }) hloaded).trans ?_
  rw [fetchState_eq]
  rfl

/-- Settles O2: the equation of FETCH, with its word, its PC and its reports read as numbers and as a list. -/
theorem fetchReturnsTheWordAtPc : Obligations.FetchReturnsTheWordAtPc := fun s _ hloaded hpending =>
  ⟨_, _, step_fetch hloaded hpending, rfl, wordOfBytes_toNat _ _, pc_add_two_toNat s.pc, (List.append_assoc _ _ _).symm, rfl⟩

/-- Settles O53: each is one write of its own input. -/
theorem configurationOperations : Obligations.ConfigurationOperations := fun _ _ =>
  ⟨fun _ hpending => step_pending hpending, fun _ hpending => step_pending hpending⟩

/-- Settles O55: the call is a function of the two levels, and each level says whether ST is zero. -/
theorem buzzerFollowsSoundTimer : Obligations.BuzzerFollowsSoundTimer := by
  intro s t
  have hactive : ∀ u : State, u.soundActive = true ↔ u.st ≠ 0 := fun u => decide_eq_true_iff
  have hsilent : ∀ u : State, u.soundActive = false ↔ u.st = 0 := fun u => by rw [← Bool.not_eq_true, hactive, not_not]
  refine ⟨hactive s, ?_⟩
  rw [← hactive s, ← hactive t, ← hsilent s, ← hsilent t]
  cases s.soundActive <;> cases t.soundActive <;> decide

/-! ### Refusals (R295, R297) -/

/-- An operation that needs a program is refused exactly before the first LOAD. -/
theorem afterLoad_next_refused_iff {s t : State} {r : Refusal} :
    afterLoad s (.next t) = .refused r ↔ s.loaded = false ∧ r = .notLoaded := by
  cases hloaded : s.loaded <;> simp [afterLoad, hloaded, eq_comm]

theorem executeOp_refused_iff {w : Word} {s : State} {r : Refusal} :
    executeOp w s = .refused r ↔ s.loaded = false ∧ r = .notLoaded := by
  obtain ⟨t, hnext⟩ := executeWord_completes w s
  rw [executeOp, hnext, afterLoad_next_refused_iff]

theorem stepOp_refused_iff {s : State} {r : Refusal} : stepOp s = .refused r ↔ s.loaded = false ∧ r = .notLoaded := by
  obtain ⟨t, hnext⟩ := executeWord_completes (fetchWord s) (fetchState s)
  rw [stepOp, hnext, afterLoad_next_refused_iff]

theorem loadOp_refused_iff {rom : List Byte} {s : State} {r : Refusal} :
    loadOp rom s = .refused r ↔ rom.length > 3584 ∧ r = .imageTooLong := by
  unfold loadOp maxImage
  split <;> simp_all [eq_comm]

/-- The operation needs a program (R297). -/
def HostOp.NeedsProgram (op : HostOp) : Prop := op = .step ∨ op = .fetch ∨ ∃ w, op = .execute w

theorem hostOp_refused_iff {op : HostOp} {s : State} {r : Refusal} : hostOp op s = .refused r ↔
    (r = .notLoaded ∧ s.loaded = false ∧ op.NeedsProgram) ∨ (r = .imageTooLong ∧ ∃ rom, op = .load rom ∧ rom.length > 3584) := by
  cases op
  case step => simp [hostOp, stepOp_refused_iff, HostOp.NeedsProgram, and_comm]
  case fetch => simp [hostOp, fetchOp, afterLoad_next_refused_iff, HostOp.NeedsProgram, and_comm]
  case execute => simp [hostOp, executeOp_refused_iff, HostOp.NeedsProgram, and_comm]
  case load => simp [hostOp, loadOp_refused_iff, HostOp.NeedsProgram, and_comm]
  all_goals simp [hostOp, HostOp.NeedsProgram]

/-- Settles O52: `hostOp_refused_iff`, at the requested operation and at the STEP of an empty list. -/
theorem refusalsAreExactlyTheTwo : Obligations.RefusalsAreExactlyTheTwo := by
  intro s op rest hpending
  have hidle : step { s with pending := [] } = hostOp .step { s with pending := [] } := step_eq_hostOp _
  have hidle_refused : ∀ r, step { s with pending := [] } = .refused r ↔ s.loaded = false ∧ r = .notLoaded := fun r => by
    rw [hidle]
    exact stepOp_refused_iff
  rw [step_pending hpending]
  refine ⟨?_, ?_, fun r hr => ?_, ?_, fun r hr => ((hidle_refused r).1 hr).2⟩
  · simp [hostOp_refused_iff]
  · simp [hostOp_refused_iff, HostOp.NeedsProgram]
  · obtain ⟨rfl, -⟩ | ⟨rfl, -⟩ := hostOp_refused_iff.1 hr
    · exact .inr rfl
    · exact .inl rfl
  · simp [hidle_refused]

/-! ### The frame (R313) -/

/-- A run of some steps goes on with the rest. -/
theorem run_add {m : Nat} {s t : State} (n : Nat) (hrun : Host.Core.run core m s = .next t) :
    Host.Core.run core (m + n) s = Host.Core.run core n t := by
  induction m generalizing s with
  | zero =>
    obtain rfl := Host.Outcome.next.inj hrun
    rw [Nat.zero_add]
  | succ m ih =>
    rw [Nat.add_right_comm]
    simp only [Host.Core.run] at hrun ⊢
    cases hstep : core.step s with
    | next u =>
      rw [hstep] at hrun
      exact ih hrun
    | fault r => simp [hstep] at hrun
    | refused r => simp [hstep] at hrun

theorem run_one {s t : State} (hstep : step s = .next t) : Host.Core.run core 1 s = .next t := by
  have hstep : core.step s = .next t := hstep
  simp only [Host.Core.run, hstep]

/-- Executing a word neither reads nor changes what the host asks for next, and keeps a program loaded. -/
theorem executeWord_with_pending {w : Word} {s t : State} (hnext : executeWord w s = .next t) :
    t.pending = s.pending ∧ t.loaded = s.loaded ∧
      ∀ p, executeWord w { s with pending := p } = .next { t with pending := p } := by
  obtain ⟨i, hdecode, hexec⟩ | ⟨e, hdecode, hexec⟩ := executeWord_cases w s
  · rw [hexec] at hnext
    obtain ⟨-, -, hloaded, hpending, -⟩ := exec_settings hnext
    exact ⟨hpending, hloaded, fun p => (executeWord_ok hdecode _).trans (exec_with_pending hnext p)⟩
  · obtain rfl := Host.Outcome.next.inj (hexec.symm.trans hnext)
    exact ⟨rfl, rfl, fun p => executeWord_error hdecode _⟩

/-- A STEP asked for is the STEP that runs alone, with the rest of the requests kept. -/
theorem step_running_asked {s : State} (hrunning : s.Running) : ∃ t, step s = .next t ∧ t.Running ∧
    ∀ rest, step { s with pending := .step :: rest } = .next { t with pending := rest } := by
  obtain ⟨t, hnext⟩ := executeWord_completes (fetchWord s) (fetchState s)
  obtain ⟨hpending, hloaded, hasked⟩ := executeWord_with_pending hnext
  rw [fetchState_eq] at hpending hloaded hasked
  refine ⟨t, (step_running hrunning).trans hnext, ⟨hloaded.trans hrunning.1, hpending.trans hrunning.2⟩, fun rest => ?_⟩
  rw [step_pending rfl]
  refine (stepOp_eq (s := { s with pending := rest }) hrunning.1).trans ?_
  rw [fetchState_eq]
  exact hasked rest

/-- So a run of STEPs asked for is the run of as many alone. -/
theorem run_running_asked (n : Nat) : ∀ s : State, s.Running → ∃ t, Host.Core.run core n s = .next t ∧
    ∀ rest, Host.Core.run core n { s with pending := List.replicate n .step ++ rest } = .next { t with pending := rest } := by
  induction n with
  | zero => exact fun s _ => ⟨s, rfl, fun _ => rfl⟩
  | succ n ih =>
    intro s hrunning
    obtain ⟨u, hstep, hrunning', hasked⟩ := step_running_asked hrunning
    obtain ⟨t, hrun, hrunAsked⟩ := ih u hrunning'
    rw [Nat.add_comm n 1]
    refine ⟨t, (run_add n (run_one hstep)).trans hrun, fun rest => ?_⟩
    rw [Nat.add_comm 1 n, List.replicate_succ, Nat.add_comm n 1]
    exact (run_add n (run_one (hasked _))).trans (hrunAsked rest)

/-- Settles O54: the start of a frame puts IPF STEPs and a TICK first, and the STEPs run as they would alone. -/
theorem frameIsIpfStepsThenTick : Obligations.FrameIsIpfStepsThenTick := by
  intro s rest hrunning
  obtain ⟨t, hrun, hasked⟩ := run_running_asked s.ipf s hrunning
  have hstart : step { s with pending := .frame :: rest } =
      .next { s with pending := List.replicate s.ipf .step ++ (.tick :: rest) } := by
    have hops : frameOps s.ipf ++ rest = List.replicate s.ipf .step ++ (.tick :: rest) := List.append_assoc _ _ _
    rw [step_pending rfl, ← hops]
    rfl
  have hsteps := (run_add s.ipf (run_one hstart)).trans (hasked (.tick :: rest))
  exact ⟨t, hrun, hsteps, (run_add 1 hsteps).trans (run_one (step_tick (s := { t with pending := .tick :: rest }) rfl))⟩

end Sys2Proof.Machine
end

section
/-! What every operation keeps: the log is appended to, by justified events only; memory stays in canonical form; the input queries are
counted; and the stack at or above SP stays unobserved. Each is shown for an instruction, then a word, then an operation of the host. -/

namespace Sys2Proof.Machine

/-! ### Reports (R252 to R260) -/

/-- What the execution of one word may append to the log: at most one event, which had its condition and is none of the fetch's own. -/
def ExecutionReports (ds : List Diagnostic) : Prop :=
  ds.length ≤ 1 ∧ ∀ d ∈ ds, d.justified ∧ ∀ pc, d ≠ .fetchRange pc

theorem executionReports_nil : ExecutionReports [] := ⟨Nat.zero_le 1, nofun⟩

theorem executionReports_singleton {d : Diagnostic} (hjustified : d.justified) (hne : ∀ pc, d ≠ .fetchRange pc) :
    ExecutionReports [d] :=
  ⟨Nat.le_refl 1, List.forall_mem_singleton.2 ⟨hjustified, hne⟩⟩

theorem executionReports_skipReports (pc : Word) : ExecutionReports (skipReports pc) := by
  unfold skipReports
  split
  case isTrue hcarry => exact executionReports_singleton hcarry nofun
  case isFalse => exact executionReports_nil

theorem executionReports_ite_skip (c : Prop) [Decidable c] (pc : Word) : ExecutionReports (if c then skipReports pc else []) := by
  split
  · exact executionReports_skipReports pc
  · exact executionReports_nil

theorem executionReports_exec (i : Instr) (s : State) : ExecutionReports (execReports i s) := by
  cases i
  case seImm | sneImm | seReg | sneReg | skp | sknp => exact executionReports_ite_skip _ s.pc
  case call nnn =>
    simp only [execReports]
    split
    · exact executionReports_nil
    · exact executionReports_singleton (d := .stackOverflow s.pc nnn) trivial nofun
  case ret =>
    simp only [execReports]
    split
    · exact executionReports_singleton (d := .stackUnderflow s.pc) trivial nofun
    · exact executionReports_nil
  all_goals exact executionReports_nil

theorem justified_of_decodeWord_error {w : Word} {e : Reject} (h : decodeWord w = .error e) :
    (Diagnostic.unrecognizedOpcode w).justified := by
  intro r hr
  by_contra hsel
  have hmatch : w &&& r.mask = r.value := by simpa [OpcodeRow.selectedBy] using hsel
  obtain ⟨i, hi, -⟩ := (decodeWord_row w r.num).2 ⟨r, hr, rfl, hmatch⟩
  rw [h] at hi
  cases hi

theorem executeWord_log {w : Word} {s t : State} (hnext : executeWord w s = .next t) :
    ∃ ds, t.log = s.log ++ ds ∧ ExecutionReports ds := by
  obtain ⟨i, -, hexec⟩ | ⟨e, hdecode, hexec⟩ := executeWord_cases w s
  · obtain ⟨-, -, hlog, -, -⟩ := exec_unread (hexec.symm.trans hnext)
    exact ⟨_, hlog, executionReports_exec i s⟩
  · obtain rfl := Host.Outcome.next.inj (hexec.symm.trans hnext)
    exact ⟨_, rfl, executionReports_singleton (justified_of_decodeWord_error hdecode) nofun⟩

theorem fetchReports_justified (pc : Word) : ∀ d ∈ fetchReports pc, d.justified := by
  intro d hd
  obtain hd | hd := List.mem_append.1 hd
  · split at hd
    case isTrue hrange => exact List.mem_singleton.1 hd ▸ hrange
    case isFalse => cases hd
  · exact ((executionReports_skipReports pc).2 d hd).1

/-- Settles O45: the fetch leaves its reports, and executing the fetched word appends to them. -/
theorem stepReportsInOrder : Obligations.StepReportsInOrder := by
  intro s t hrunning hstep
  rw [step_running hrunning] at hstep
  obtain ⟨ds, hlog, hlength, hds⟩ := executeWord_log hstep
  rw [fetchState_eq] at hlog
  exact ⟨ds, hlog, hlength, fun d hd => (hds d hd).2⟩

/-- What an operation appends to the log, every event with its condition. -/
theorem hostOp_log {op : HostOp} {s t : State} (hnext : hostOp op s = .next t) :
    ∃ ds, t.log = s.log ++ ds ∧ ∀ d ∈ ds, d.justified := by
  have hfetch := fetchReports_justified s.pc
  cases op
  case step =>
    obtain ⟨-, hnext⟩ := stepOp_next hnext
    obtain ⟨ds, hlog, -, hds⟩ := executeWord_log hnext
    rw [fetchState_eq] at hlog
    exact ⟨fetchReports s.pc ++ ds, hlog.trans (List.append_assoc _ _ _),
      List.forall_mem_append.2 ⟨hfetch, fun d hd => (hds d hd).1⟩⟩
  case fetch =>
    obtain ⟨-, rfl⟩ := fetchOp_next hnext
    rw [fetchState_eq]
    exact ⟨_, rfl, hfetch⟩
  case execute w =>
    obtain ⟨-, hnext⟩ := executeOp_next hnext
    obtain ⟨ds, hlog, -, hds⟩ := executeWord_log hnext
    exact ⟨ds, hlog, fun d hd => (hds d hd).1⟩
  case load rom =>
    obtain ⟨-, rfl⟩ := loadOp_next hnext
    exact ⟨[], (List.append_nil _).symm, nofun⟩
  all_goals
    cases hnext
    exact ⟨[], (List.append_nil _).symm, nofun⟩

/-- Settles O46: `hostOp_log` of the operation that is next. -/
theorem logIsAppendOnly : Obligations.LogIsAppendOnly := by
  intro s t hstep
  rw [step_eq_hostOp] at hstep
  obtain ⟨ds, hlog, -⟩ := hostOp_log hstep
  exact ⟨ds, hlog⟩

/-! ### The canonical form of memory (log 15) -/

theorem exec_mem_wf {i : Instr} {s t : State} (hexec : exec i s = .next t) (hwf : Memory.wf s.mem) : Memory.wf t.mem := by
  have hframe := exec_frame hexec
  cases i
  case ldB x =>
    cases hexec
    exact memWrite_wf (memWrite_wf (memWrite_wf hwf _ _) _ _) _ _
  case storeRegs x =>
    cases hexec
    exact foldl_storeReg_wf _ s hwf
  all_goals exact (congrArg State.mem hframe :) ▸ hwf

theorem executeWord_mem_wf {w : Word} {s t : State} (hnext : executeWord w s = .next t) (hwf : Memory.wf s.mem) : Memory.wf t.mem := by
  obtain ⟨i, -, hexec⟩ | ⟨e, -, hexec⟩ := executeWord_cases w s
  · exact exec_mem_wf (hexec.symm.trans hnext) hwf
  · obtain rfl := Host.Outcome.next.inj (hexec.symm.trans hnext)
    exact hwf

theorem hostOp_mem_wf {op : HostOp} {s t : State} (hnext : hostOp op s = .next t) (hwf : Memory.wf s.mem) : Memory.wf t.mem := by
  have hfetch : Memory.wf (fetchState s).mem := by
    rw [fetchState_eq]
    exact hwf
  cases op
  case step => exact executeWord_mem_wf (stepOp_next hnext).2 hfetch
  case fetch =>
    obtain ⟨-, rfl⟩ := fetchOp_next hnext
    exact hfetch
  case execute w => exact executeWord_mem_wf (executeOp_next hnext).2 hwf
  case load rom =>
    obtain ⟨hfits, rfl⟩ := loadOp_next hnext
    exact Memory.wf_writeBytes rom hwf (Nat.add_le_add_left hfits 0x200)
  all_goals
    cases hnext
    exact hwf

/-! ### The input queries and their count (log 6, log 7, log 10) -/

/-- The calls made on the ports from `s` to `t` hold as many input queries as were counted. -/
def CountsInputs (s t : State) : Prop := ∃ cs, t.calls = s.calls ++ cs ∧ t.draws = s.draws + cs.countP PortCall.isInput

theorem countsInputs_of_eq {s t : State} (hcalls : t.calls = s.calls) (hdraws : t.draws = s.draws) : CountsInputs s t :=
  ⟨[], hcalls.trans (List.append_nil _).symm, hdraws⟩

theorem countP_isInput_touchCalls (d : Display) (ps : List Pixel) : (ps.flatMap (touchCalls d)).countP PortCall.isInput = 0 := by
  rw [List.countP_eq_zero]
  intro c hc
  obtain ⟨p, -, hc⟩ := List.mem_flatMap.1 hc
  unfold touchCalls at hc
  split at hc
  all_goals
    obtain rfl | rfl := List.mem_pair.1 hc <;> exact Bool.false_ne_true

theorem exec_countsInputs {i : Instr} {s t : State} (hexec : exec i s = .next t) : CountsInputs s t := by
  have hframe := exec_frame hexec
  cases i
  case cls =>
    cases hexec
    exact ⟨[.clearAll], rfl, rfl⟩
  case rnd x kk =>
    cases hexec
    exact ⟨[.randByte], rfl, rfl⟩
  case skp x =>
    obtain ⟨u, hnext, -, -, hdraws, -, hcalls, -⟩ := next_of_queryThenSkipIf (exec_skp x s)
    obtain rfl := Host.Outcome.next.inj (hnext.symm.trans hexec)
    exact ⟨_, hcalls, hdraws⟩
  case sknp x =>
    obtain ⟨u, hnext, -, -, hdraws, -, hcalls, -⟩ := next_of_queryThenSkipIf (exec_sknp x s)
    obtain rfl := Host.Outcome.next.inj (hnext.symm.trans hexec)
    exact ⟨_, hcalls, hdraws⟩
  case drw x y n =>
    have hdraws : t.draws = s.draws := (congrArg State.draws hframe :)
    cases hexec
    exact ⟨_, drawSprite_calls x y n s, hdraws.trans (by rw [countP_isInput_touchCalls, Nat.add_zero])⟩
  all_goals exact countsInputs_of_eq (congrArg State.calls hframe :) (congrArg State.draws hframe :)

theorem executeWord_countsInputs {w : Word} {s t : State} (hnext : executeWord w s = .next t) : CountsInputs s t := by
  obtain ⟨i, -, hexec⟩ | ⟨e, -, hexec⟩ := executeWord_cases w s
  · exact exec_countsInputs (hexec.symm.trans hnext)
  · obtain rfl := Host.Outcome.next.inj (hexec.symm.trans hnext)
    exact countsInputs_of_eq rfl rfl

theorem hostOp_countsInputs {op : HostOp} {s t : State} (hnext : hostOp op s = .next t) : CountsInputs s t := by
  cases op
  case step =>
    have hcounts := executeWord_countsInputs (stepOp_next hnext).2
    rw [fetchState_eq] at hcounts
    exact hcounts
  case fetch =>
    obtain ⟨-, rfl⟩ := fetchOp_next hnext
    rw [fetchState_eq]
    exact countsInputs_of_eq rfl rfl
  case execute w => exact executeWord_countsInputs (executeOp_next hnext).2
  case load rom =>
    obtain ⟨-, rfl⟩ := loadOp_next hnext
    exact countsInputs_of_eq rfl rfl
  all_goals
    cases hnext
    exact countsInputs_of_eq rfl rfl

/-! ### The invariant -/

/-- Settles O59: the three parts, each of the operation that is next; taking a request off the list touches none of them. -/
theorem stepKeepsTheInvariant : Obligations.StepKeepsTheInvariant := by
  rintro s t ⟨hwf, hlog, hdraws⟩ hstep
  rw [step_eq_hostOp] at hstep
  obtain ⟨ds, hds, hjustified⟩ := hostOp_log hstep
  obtain ⟨cs, hcalls, hcount⟩ := hostOp_countsInputs hstep
  refine ⟨hostOp_mem_wf hstep hwf, ?_, ?_⟩
  · rw [hds]
    exact List.forall_mem_append.2 ⟨hlog, hjustified⟩
  · rw [hcount, hcalls, List.countP_append, ← hdraws]

/-- Settles O58: both states log nothing and have queried nothing, and the font is written below 4096. -/
theorem resetMeetsTheInvariant : Obligations.ResetMeetsTheInvariant := by
  refine ⟨⟨Memory.wf_nil, nofun, rfl⟩, fun p => ⟨Memory.wf_writeBytes _ Memory.wf_nil ?_, nofun, rfl⟩⟩
  rw [Vector.length_toList]
  decide

/-! ### Stack entries at or above SP (D41) -/

/-- Stacks that agree below SP agree below SP after an instruction: CALL pushes the same entry on both. -/
theorem execStack_agree {i : Instr} {s t : State} (hexec : exec i s = .next t) {k k' : Vector Word 16}
    (hagree : ∀ j (h : j < 16), j < s.sp.val → k[j] = k'[j]) :
    ∀ j (h : j < 16), j < t.sp.val → (execStack i s k)[j] = (execStack i s k')[j] := by
  intro j hj hlt
  obtain hsp | ⟨nnn, rfl, hsp⟩ | ⟨rfl, hsp⟩ := exec_sp_cases hexec
  · rw [hsp] at hlt
    cases i
    case call nnn =>
      have hfull : ¬ s.sp.val < 16 := fun hroom => by
        obtain rfl := Host.Outcome.next.inj ((exec_call_of_lt nnn hroom).symm.trans hexec)
        exact absurd (congrArg Fin.val hsp) (Nat.succ_ne_self _)
      simp only [execStack, dif_neg hfull]
      exact hagree j hj hlt
    all_goals exact hagree j hj hlt
  · have hroom : s.sp.val < 16 := by omega
    simp only [execStack, dif_pos hroom, Vector.getElem_set]
    split
    · rfl
    · exact hagree j hj (by omega)
  · exact hagree j hj (by omega)

theorem sameBelowSp_iff {s s' : State} : s.SameBelowSp s' ↔
    ∃ k, s' = { s with stack := k } ∧ ∀ j (h : j < 16), j < s.sp.val → k[j] = s.stack[j] := by
  constructor
  · exact fun ⟨heq, hagree⟩ => ⟨s'.stack, heq, hagree⟩
  · rintro ⟨k, rfl, hagree⟩
    exact ⟨rfl, hagree⟩

theorem exec_sameBelowSp {i : Instr} {s s' t : State} (hsame : s.SameBelowSp s') (hexec : exec i s = .next t) :
    ∃ t', exec i s' = .next t' ∧ t.SameBelowSp t' := by
  obtain ⟨k, rfl, hagree⟩ := sameBelowSp_iff.1 hsame
  obtain ⟨-, -, -, hstack, -⟩ := exec_unread hexec
  refine ⟨_, exec_with_stack hexec k hagree, rfl, ?_⟩
  rw [hstack]
  exact execStack_agree hexec hagree

theorem executeWord_sameBelowSp {w : Word} {s s' t : State} (hsame : s.SameBelowSp s') (hnext : executeWord w s = .next t) :
    ∃ t', executeWord w s' = .next t' ∧ t.SameBelowSp t' := by
  obtain ⟨i, hdecode, hexec⟩ | ⟨e, hdecode, hexec⟩ := executeWord_cases w s
  · rw [executeWord_ok hdecode]
    exact exec_sameBelowSp hsame (hexec.symm.trans hnext)
  · obtain rfl := Host.Outcome.next.inj (hexec.symm.trans hnext)
    obtain ⟨k, rfl, hagree⟩ := sameBelowSp_iff.1 hsame
    exact ⟨_, executeWord_error hdecode _, rfl, hagree⟩

theorem fetchState_sameBelowSp {s s' : State} (hsame : s.SameBelowSp s') : (fetchState s).SameBelowSp (fetchState s') := by
  obtain ⟨k, rfl, hagree⟩ := sameBelowSp_iff.1 hsame
  rw [fetchState_eq, fetchState_eq]
  exact ⟨rfl, hagree⟩

theorem hostOp_sameBelowSp {op : HostOp} {s s' t : State} (hsame : s.SameBelowSp s') (hnext : hostOp op s = .next t) :
    ∃ t', hostOp op s' = .next t' ∧ t.SameBelowSp t' := by
  have hfetch := fetchState_sameBelowSp hsame
  obtain ⟨k, rfl, hagree⟩ := sameBelowSp_iff.1 hsame
  cases op
  case step =>
    obtain ⟨hloaded, hnext⟩ := stepOp_next hnext
    obtain ⟨t', hnext', hsame'⟩ := executeWord_sameBelowSp hfetch hnext
    exact ⟨t', (stepOp_eq (s := { s with stack := k }) hloaded).trans hnext', hsame'⟩
  case fetch =>
    obtain ⟨hloaded, rfl⟩ := fetchOp_next hnext
    obtain ⟨k', heq, hagree'⟩ := sameBelowSp_iff.1 hfetch
    refine ⟨_, fetchOp_eq (s := { s with stack := k }) hloaded, ?_, ?_⟩
    · rw [heq]
      rfl
    · rw [heq]
      exact hagree'
  case execute w =>
    obtain ⟨hloaded, hnext⟩ := executeOp_next hnext
    obtain ⟨t', hnext', hsame'⟩ := executeWord_sameBelowSp hsame hnext
    exact ⟨t', (executeOp_eq (s := { s with stack := k }) hloaded w).trans hnext', hsame'⟩
  case load rom =>
    obtain ⟨hfits, rfl⟩ := loadOp_next hnext
    exact ⟨loadState rom { s with stack := k }, if_neg hfits.not_gt, rfl, fun _ _ _ => rfl⟩
  all_goals
    cases hnext
    exact ⟨_, rfl, rfl, hagree⟩

/-- Settles O48: the host asks both states for the same operation. -/
theorem entriesAboveSpAreUnobservable : Obligations.EntriesAboveSpAreUnobservable := by
  intro s s' t hsame hstep
  obtain ⟨k, rfl, hagree⟩ := sameBelowSp_iff.1 hsame
  rw [step_eq_hostOp] at hstep ⊢
  have hsame : State.SameBelowSp { s with pending := s.pending.tail } { s with stack := k, pending := s.pending.tail } :=
    ⟨rfl, hagree⟩
  exact hostOp_sameBelowSp hsame hstep

end Sys2Proof.Machine
end

section
/-! Memory (spec/20_memory.md): canonical memories are determined by what they read as (log 15), and the bytes that stores and LOAD leave,
as a later read or the next fetch finds them. -/

namespace Sys2Proof.Machine

/-! ### The canonical form (log 15) -/

theorem Memory.read_of_not_mem {m : Memory} {a : Nat} (h : ∀ c ∈ m, c.1 ≠ a) : Memory.read m a = Memory.unlisted a := by
  induction m with
  | nil => rfl
  | cons c m ih =>
    obtain ⟨hc, hm⟩ := List.forall_mem_cons.1 h
    rw [Memory.read, if_neg hc.symm, ih hm]

theorem Memory.read_of_mem {m : Memory} (hm : m.Pairwise fun c d => c.1 < d.1) {a : Nat} {b : Byte} (h : (a, b) ∈ m) :
    Memory.read m a = b := by
  induction m with
  | nil => cases h
  | cons c m ih =>
    obtain ⟨hc, hm⟩ := List.pairwise_cons.1 hm
    obtain rfl | h := List.mem_cons.1 h
    · exact if_pos rfl
    · rw [Memory.read, if_neg (hc (a, b) h).ne', ih hm h]

/-- The cells of a canonical memory are the addresses that do not read as unlisted, each with what it reads as. -/
theorem Memory.mem_iff_read {m : Memory} (hm : Memory.wf m) (a : Nat) (b : Byte) :
    (a, b) ∈ m ↔ a < 4096 ∧ b ≠ Memory.unlisted a ∧ Memory.read m a = b := by
  obtain ⟨hrising, hcells⟩ := hm
  constructor
  · intro h
    obtain ⟨hlt, hne⟩ := hcells (a, b) h
    exact ⟨hlt, hne, Memory.read_of_mem hrising h⟩
  · rintro ⟨-, hne, hread⟩
    by_contra hnot
    have hunlisted : Memory.read m a = Memory.unlisted a := Memory.read_of_not_mem fun c hc hca => by
      obtain ⟨k, b'⟩ := c
      obtain rfl : k = a := hca
      rw [Memory.read_of_mem hrising hc] at hread
      exact hnot (hread ▸ hc)
    exact hne (hread.symm.trans hunlisted)

/-- Settles O57: both lists rise strictly and have the same cells. -/
theorem equalMemoriesAreEqualData : Obligations.EqualMemoriesAreEqualData := by
  intro m m' hm hm' hread
  have : Std.Irrefl fun c d : Host.Cell => c.1 < d.1 := ⟨fun c => Nat.lt_irrefl c.1⟩
  have : Std.Antisymm fun c d : Host.Cell => c.1 < d.1 := ⟨fun _ _ hcd hdc => absurd hcd hdc.not_gt⟩
  refine List.Pairwise.eq_of_mem_iff hm.1 hm'.1 fun ⟨a, b⟩ => ?_
  rw [Memory.mem_iff_read hm, Memory.mem_iff_read hm']
  exact and_congr_right fun hlt => by rw [hread a hlt]

/-- Settles O56: `memRead_memWrite`, with the mask written as the remainder it is. -/
theorem readAfterWrite : Obligations.ReadAfterWrite := fun s a c b => memRead_memWrite s a c b

/-! ### The digits of LD B (R174) -/

theorem exec_ldB (x : Reg) (s : State) : exec (.ldB x) s =
    .next (memWrite (memWrite (memWrite s (indexAddr s 0) (hundreds (s.reg x))) (indexAddr s 1) (tens (s.reg x)))
      (indexAddr s 2) (ones (s.reg x))) := rfl

/-- The three bytes reached through I lie at different addresses, where they wrap too. -/
theorem maskAddr_indexAddr_ne (s : State) {j k : Nat} (hj : j < 3) (hk : k < 3) (hne : j ≠ k) :
    maskAddr (indexAddr s j) ≠ maskAddr (indexAddr s k) := by
  unfold maskAddr indexAddr
  omega

theorem hundreds_toNat (b : Byte) : (hundreds b).toNat = b.toNat / 100 := by
  have hb := b.isLt
  rw [hundreds, BitVec.toNat_ofNat]
  omega

theorem tens_toNat (b : Byte) : (tens b).toNat = b.toNat / 10 % 10 := by
  rw [tens, BitVec.toNat_ofNat]
  omega

theorem ones_toNat (b : Byte) : (ones b).toNat = b.toNat % 10 := by
  rw [ones, BitVec.toNat_ofNat]
  omega

/-- Settles O25: three writes to different addresses, so each digit outlasts the later ones. -/
theorem bcdStoresThreeDigits : Obligations.BcdStoresThreeDigits := by
  intro x s
  have h01 := maskAddr_indexAddr_ne s (j := 0) (k := 1) (by decide) (by decide) (by decide)
  have h02 := maskAddr_indexAddr_ne s (j := 0) (k := 2) (by decide) (by decide) (by decide)
  have h12 := maskAddr_indexAddr_ne s (j := 1) (k := 2) (by decide) (by decide) (by decide)
  refine ⟨_, exec_ldB x s, ?_, ?_, ?_, fun a ha => ?_, rfl⟩
  · rw [memRead_memWrite, if_neg h02, memRead_memWrite, if_neg h01, memRead_memWrite, if_pos rfl, hundreds_toNat]
  · rw [memRead_memWrite, if_neg h12, memRead_memWrite, if_pos rfl, tens_toNat]
  · rw [memRead_memWrite, if_pos rfl, ones_toNat]
  · rw [memRead_memWrite, if_neg (ha 2 (by decide)), memRead_memWrite, if_neg (ha 1 (by decide)), memRead_memWrite,
      if_neg (ha 0 (by decide))]

/-! ### Fx55, then Fx65 (R177) -/

/-- Settles O28: the loads read what the stores left (O26, O27), at the same addresses, since Fx55 keeps I. -/
theorem storeThenLoadRestoresRegisters : Obligations.StoreThenLoadRestoresRegisters := by
  intro x s t v' hexec
  obtain ⟨t', hexec', hstored, -, hframe⟩ := storeRegistersWritesV0ToVx x s
  obtain rfl : t' = t := Host.Outcome.next.inj (hexec'.symm.trans hexec)
  have hi : t'.i = s.i := by rw [hframe]
  obtain ⟨u, hload, hloaded, hkept, hframe'⟩ := loadRegistersReadsV0ToVx x { t' with v := v' }
  refine ⟨u, hload, fun k hk => ?_, hkept, ?_⟩
  · rw [hloaded k hk, ← hstored k hk]
    simp only [indexAddr, hi]
    rfl
  · rw [hframe']
    exact hi

/-! ### The next fetch (R63) -/

theorem memRead_congr {s : State} {a c : Nat} (h : maskAddr a = maskAddr c) : memRead s a = memRead s c := by
  rw [memRead, memRead, h]

theorem highByte_fetchWord (s : State) : highByte (fetchWord s) = memRead s s.pc.toNat := highByte_wordOfBytes _ _

theorem lowByte_fetchWord (s : State) : lowByte (fetchWord s) = memRead s (s.pc.toNat + 1) := lowByte_wordOfBytes _ _

/-- The byte a store leaves at an address is what the next fetch reads where PC, which a store keeps, points at it. -/
theorem fetchWord_of_store {s t : State} (hpc : t.pc = s.pc) (a : Nat) :
    (maskAddr a = maskAddr s.pc.toNat → highByte (fetchWord t) = memRead t a) ∧
    (maskAddr a = maskAddr (s.pc.toNat + 1) → lowByte (fetchWord t) = memRead t a) := by
  rw [highByte_fetchWord, lowByte_fetchWord, hpc]
  exact ⟨fun h => memRead_congr h.symm, fun h => memRead_congr h.symm⟩

/-- LOAD puts PC at the first byte of the image. -/
theorem fetchWord_loadState (rom : List Byte) (s : State) :
    (∀ h : 0 < rom.length, highByte (fetchWord (loadState rom s)) = rom[0]) ∧
    (∀ h : 1 < rom.length, lowByte (fetchWord (loadState rom s)) = rom[1]) := by
  rw [highByte_fetchWord, lowByte_fetchWord]
  exact ⟨read_loadState_image rom s 0, read_loadState_image rom s 1⟩

/-- Settles O29: the byte at each address is known from O26, O25 and O51, and the next fetch reads it. -/
theorem nextFetchSeesTheStore : Obligations.NextFetchSeesTheStore := by
  intro s t
  refine ⟨fun x k hexec hk => ?_, fun x hexec => ?_, fun rom rest hpending hstep => ?_⟩
  · obtain ⟨t', hexec', hstored, -, hframe⟩ := storeRegistersWritesV0ToVx x s
    obtain rfl : t' = t := Host.Outcome.next.inj (hexec'.symm.trans hexec)
    rw [← hstored k hk]
    exact fetchWord_of_store (by rw [hframe]) _
  · obtain ⟨t', hexec', hhundreds, htens, hones, -, hframe⟩ := bcdStoresThreeDigits x s
    obtain rfl : t' = t := Host.Outcome.next.inj (hexec'.symm.trans hexec)
    have hpc : t'.pc = s.pc := by rw [hframe]
    have hfetch : ∀ k d, (memRead t' (indexAddr s k)).toNat = d →
        (maskAddr (indexAddr s k) = maskAddr s.pc.toNat → (highByte (fetchWord t')).toNat = d) ∧
        (maskAddr (indexAddr s k) = maskAddr (s.pc.toNat + 1) → (lowByte (fetchWord t')).toNat = d) := by
      rintro k d rfl
      obtain ⟨hhigh, hlow⟩ := fetchWord_of_store hpc (indexAddr s k)
      exact ⟨fun h => by rw [hhigh h], fun h => by rw [hlow h]⟩
    simp only [List.forall_mem_cons]
    exact ⟨hfetch 0 _ hhundreds, hfetch 1 _ htens, hfetch 2 _ hones, List.forall_mem_nil _⟩
  · rw [step_pending hpending] at hstep
    obtain ⟨-, rfl⟩ := loadOp_next hstep
    exact fetchWord_loadState rom _

/-! ### Reset and construction (R57, R291) -/

/-- Past the font, unlisted memory reads as zero. -/
theorem Memory.unlisted_of_ge {a : Nat} (h : 80 ≤ a) : Memory.unlisted a = 0 :=
  List.getD_eq_default _ _ h

@[simp] theorem reg_reset (r : Reg) : State.reset.reg r = 0 := Vector.getElem_replicate r.isLt

@[simp] theorem reset_stack_getElem (j : Nat) (h : j < 16) : State.reset.stack[j] = 0 := Vector.getElem_replicate h

/-- Settles O49: the fields of the reset state. -/
theorem resetValues : Obligations.ResetValues :=
  ⟨reg_reset, rfl, rfl, rfl, reset_stack_getElem, rfl, rfl, rfl⟩

theorem read_construct (p : Params) (a : Nat) :
    Memory.read (State.construct p).mem a = if h : a < 80 then p.font[a] else Memory.unlisted a := by
  rw [State.construct, Memory.read_writeBytes]
  have hfont : (0x000 ≤ a ∧ a < 0x000 + p.font.toList.length) ↔ a < 80 := by simp
  by_cases h : a < 80
  · rw [dif_pos (hfont.2 h), dif_pos h]
    simp
  · rw [dif_neg (mt hfont.1 h), dif_neg h]
    rfl

/-- Settles O50: the fields of construction; its memory is `read_construct`, and a STEP is refused because no program is loaded. -/
theorem constructionState : Obligations.ConstructionState := by
  intro p
  refine ⟨_, rfl, reg_reset, rfl, rfl, rfl, reset_stack_getElem, rfl, rfl, rfl, fun a h => ?_, fun a h _ => ?_, rfl, rfl, rfl, rfl,
    rfl, ?_⟩
  · rw [read_construct, dif_pos h]
  · rw [read_construct, dif_neg h.not_gt, Memory.unlisted_of_ge h]
  · rw [step_of_pending_nil rfl]
    exact stepOp_refused_iff.2 ⟨rfl, rfl⟩

end Sys2Proof.Machine
end

section
/-! CALL and RET, the self-jump, and the flag instructions with x = F: statements about more than one rule at a time. -/

namespace Sys2Proof.Machine

/-- A STEP whose word decodes, in one equation (R84). -/
theorem step_of_decode {s : State} {i : Instr} (hrunning : s.Running) (hdecode : decodeWord (fetchWord s) = .ok i) :
    step s = exec i { s with pc := s.pc + 2#16, log := s.log ++ fetchReports s.pc } := by
  rw [step_running hrunning, executeWord_ok hdecode, fetchState_eq]

/-- Settles O15: the CALL pushes the fetched PC, and the RET, fetched from the same memory, pops it. -/
theorem callThenRetReturns : Obligations.CallThenRetReturns := by
  intro nnn s hrunning hroom hcall hret
  have hstep := step_of_decode hrunning hcall
  rw [exec_call_of_lt nnn (s := { s with pc := s.pc + 2#16, log := s.log ++ fetchReports s.pc }) hroom] at hstep
  have hstep' := step_of_decode (s := { s with
    pc := zextNnn nnn, log := s.log ++ fetchReports s.pc, sp := ⟨s.sp.val + 1, by omega⟩,
    stack := s.stack.set s.sp.val (s.pc + 2#16) }) hrunning hret
  rw [exec_ret_of_pos (Nat.succ_ne_zero s.sp.val)] at hstep'
  refine ⟨_, _, hstep, hstep', ?_, rfl, rfl, fun j hj hne => Vector.getElem_set_ne hroom hj hne.symm⟩
  exact (congrArg BitVec.toNat (Vector.getElem_set_self hroom)).trans (pc_add_two_toNat s.pc)

/-- The word of a self-jump is JP to the PC it stands at. -/
theorem encode_jp_self {pc : Word} (h : pc.toNat ≤ 0x0FFF) : encode (.jp (pc.setWidth 12)) = 0x1000#16 ||| pc := by
  have hsum : (0x1000 ||| pc.toNat) = 0x1000 + pc.toNat :=
    (Nat.two_pow_add_eq_or_of_lt (i := 12) (by omega : pc.toNat < 2 ^ 12) 1).symm
  apply BitVec.eq_of_toNat_eq
  rw [encode, formatA_toNat (by decide), BitVec.toNat_or, BitVec.toNat_setWidth]
  simp only [BitVec.toNat_ofNat, Nat.reducePow, Nat.reduceMod, hsum]
  omega

/-- Settles O16: the word at PC decodes to a jump to PC, so the PC of the fetch is put back. -/
theorem selfJumpIsAFixedPoint : Obligations.SelfJumpIsAFixedPoint := by
  rintro s hrunning ⟨hword, hrange⟩
  have hdecode : decodeWord (fetchWord s) = .ok (.jp (s.pc.setWidth 12)) := by
    rw [hword, ← encode_jp_self hrange]
    exact decodeOfEncode _ rfl
  have hpc : zextNnn (s.pc.setWidth 12) = s.pc := by
    apply BitVec.eq_of_toNat_eq
    rw [zextNnn_toNat, BitVec.toNat_setWidth]
    omega
  refine ⟨_, (step_of_decode hrunning hdecode).trans (exec_jp _ _), ?_⟩
  rw [hpc]

/-- Settles O22: O19, O20 and O21 at x = F, where the result is in VF and every other register is kept. -/
theorem vfDestinationKeepsTheResult : Obligations.VfDestinationKeepsTheResult := by
  rintro y s a b src rfl rfl hsrc
  have hkept : ∀ {t : State}, (∀ r, r ≠ vf → r ≠ vf → t.reg r = s.reg r) → ∀ r, r ≠ vf → t.reg r = s.reg r :=
    fun h r hr => h r hr hr
  obtain ⟨tAdd, hadd, haddVf, -, haddKept, haddFrame⟩ := addSetsCarry vf y s
  obtain ⟨⟨tSub, hsub, hsubVf, -, hsubKept, hsubFrame⟩, tSubn, hsubn, hsubnVf, -, hsubnKept, hsubnFrame⟩ :=
    subtractSetsNoBorrow vf y s
  obtain ⟨⟨tShr, hshr, hshrVf, -, hshrKept, hshrFrame⟩, tShl, hshl, hshlVf, -, hshlKept, hshlFrame⟩ :=
    shiftsMoveOneBitIntoVf vf y s src (hsrc.trans (apply_ite BitVec.toNat _ _ _).symm)
  simp only [List.forall_mem_cons]
  exact ⟨⟨tAdd, hadd, haddVf, hkept haddKept, haddFrame⟩, ⟨tSub, hsub, hsubVf, hkept hsubKept, hsubFrame⟩,
    ⟨tShr, hshr, hshrVf, hkept hshrKept, hshrFrame⟩, ⟨tSubn, hsubn, hsubnVf, hkept hsubnKept, hsubnFrame⟩,
    ⟨tShl, hshl, hshlVf, hkept hshlKept, hshlFrame⟩, List.forall_mem_nil _⟩

end Sys2Proof.Machine
end
